-- ==== Sys2Proof/Word.lean ====
section
/-! DEFINITION. The word types of the RCW codec (spec 00_scope.md R1, R4, R5). Every value of the spec is an
unsigned integer of a stated width, so each is a bit vector of that width. -/

namespace Sys2Proof

/-- The 32-bit data word: the RCW itself, every host register and every host data value (R1, R35). -/
abbrev Word := BitVec 32

/-- One byte of the RCW on the bus (R1, R7). -/
abbrev Byte := BitVec 8

/-- A 7-bit slave address, as ADDR holds it (R50, R102). -/
abbrev SlaveAddr := BitVec 7

end Sys2Proof
end

