-- ==== Sys2Proof/Syntax.lean ====
section
/-! DEFINITION. The commands of RCW-codec command set 1, one constructor per row of spec/opcode_table.json
(30_encoding.md R171). CODE is kept as the 4-bit field of the command format (R168, R169); that it fits the width of
the selected table is the check of WellFormed. -/

namespace Sys2Proof

/-- One command, as a host write to CMD names it (R171). -/
inductive Instr where
  /-- NOP (R205) -/
  | nop
  /-- DECODE (R233) -/
  | decode
  /-- ENCODE.CFG (R234) -/
  | encodeCfg
  /-- ENCODE.WORK (R235) -/
  | encodeWork
  /-- PLAN (R296) -/
  | plan
  /-- LOOKUP.PHY c (R270) -/
  | lookupPhy (code : BitVec 4)
  /-- LOOKUP.BOOT c (R271) -/
  | lookupBoot (code : BitVec 4)
  /-- LOOKUP.SRC c (R272) -/
  | lookupSrc (code : BitVec 4)
  /-- LOOKUP.XOSC c (R273) -/
  | lookupXosc (code : BitVec 4)
  /-- LOOKUP.PLL c (R274) -/
  | lookupPll (code : BitVec 4)
  /-- LOOKUP.WAIT c (R275) -/
  | lookupWait (code : BitVec 4)
  /-- LOOKUP.SPEED c (R276) -/
  | lookupSpeed (code : BitVec 4)
  /-- UPDATE (R320) -/
  | update
  deriving DecidableEq, Repr

end Sys2Proof
end

