-- ==== Sys2Proof/WellFormed.lean ====
section
/-! DEFINITION. Which commands the encoding of 30_encoding.md can express: CODE must fit the width of the selected
table's field, "2 bits for PHY, 3 for BOOT and WAIT, 1 for SRC, XOSC, PLL and SPEED" (R169, R172). -/

namespace Sys2Proof

/-- The width of the CODE operand of a command, in bits; a command without CODE has width 0 (R169, R171). -/
def Instr.codeWidth : Instr → Nat
  | .nop => 0
  | .decode => 0
  | .encodeCfg => 0
  | .encodeWork => 0
  | .plan => 0
  | .lookupPhy _ => 2
  | .lookupBoot _ => 3
  | .lookupSrc _ => 1
  | .lookupXosc _ => 1
  | .lookupPll _ => 1
  | .lookupWait _ => 3
  | .lookupSpeed _ => 1
  | .update => 0

/-- The CODE field a command carries, 0 for a command without one: "every other command: must be 0" (R168). -/
def Instr.codeOf : Instr → BitVec 4
  | .nop => 0
  | .decode => 0
  | .encodeCfg => 0
  | .encodeWork => 0
  | .plan => 0
  | .lookupPhy c => c
  | .lookupBoot c => c
  | .lookupSrc c => c
  | .lookupXosc c => c
  | .lookupPll c => c
  | .lookupWait c => c
  | .lookupSpeed c => c
  | .update => 0

/-- The command can be encoded: its CODE fits the table it selects (R169). -/
def Instr.wf (i : Instr) : Bool := i.codeOf.toNat < 2 ^ i.codeWidth

end Sys2Proof
end

