-- ==== Sys2Proof/Decode.lean ====
section
/-! DEFINITION. Decoding a taken command word by the opcode map of 30_encoding.md R170 and R171, naming why a word is
illegal (R172), and the encoder of the same format (R168). Every command is one 32-bit host write, never bytes
(R105, R174), so the decoder reads a word. -/

namespace Sys2Proof

/-- Why a command word matches no row of the opcode map (R172). Each is the same error for the block,
ILLEGAL_COMMAND; the reason is the model's name for the clause of R172 that covers the word. -/
inductive Illegal where
  /-- a bit of 31:12 is set -/
  | highBits
  /-- OP 0x6 to 0xF -/
  | operation
  /-- a SEL the operation does not have -/
  | selector
  /-- a CODE on a command without one, or too wide for the selected table -/
  | code
  deriving DecidableEq, Repr

/-- OP, bits 3:0 of a command word (R168). -/
def opField (c : Word) : BitVec 4 := c.extractLsb' 0 4

/-- SEL, bits 7:4 of a command word (R168). -/
def selField (c : Word) : BitVec 4 := c.extractLsb' 4 4

/-- CODE, bits 11:8 of a command word (R168). -/
def codeField (c : Word) : BitVec 4 := c.extractLsb' 8 4

/-- The one command format: bits 31:12 zero, then CODE, SEL and OP (R168). -/
def commandWord (op sel code : BitVec 4) : Word := (0#20 ++ code ++ sel ++ op : BitVec 32)

/-- One row of the opcode map: the words `c` with `c & mask = pattern`, and the command they stand for (R171). -/
structure OpcodeRow where
  pattern : Word
  mask : Word
  build : BitVec 4 → Instr

/-- A word matches a row when its masked bits are the row's match value (R170). -/
def OpcodeRow.accepts (r : OpcodeRow) (c : Word) : Bool := c &&& r.mask == r.pattern

/-- The opcode map, exactly the thirteen rows of R171 in the table's order. -/
def opcodeRows : List OpcodeRow := [
  ⟨0x00000000, 0xFFFFFFFF, fun _ => .nop⟩,
  ⟨0x00000001, 0xFFFFFFFF, fun _ => .decode⟩,
  ⟨0x00000002, 0xFFFFFFFF, fun _ => .encodeCfg⟩,
  ⟨0x00000012, 0xFFFFFFFF, fun _ => .encodeWork⟩,
  ⟨0x00000003, 0xFFFFFFFF, fun _ => .plan⟩,
  ⟨0x00000004, 0xFFFFFCFF, .lookupPhy⟩,
  ⟨0x00000014, 0xFFFFF8FF, .lookupBoot⟩,
  ⟨0x00000024, 0xFFFFFEFF, .lookupSrc⟩,
  ⟨0x00000034, 0xFFFFFEFF, .lookupXosc⟩,
  ⟨0x00000044, 0xFFFFFEFF, .lookupPll⟩,
  ⟨0x00000054, 0xFFFFF8FF, .lookupWait⟩,
  ⟨0x00000064, 0xFFFFFEFF, .lookupSpeed⟩,
  ⟨0x00000005, 0xFFFFFFFF, fun _ => .update⟩]

/-- Does the operation OP have a row with the selector SEL (R171): 0 for NOP, DECODE, PLAN and UPDATE, 0 or 1 for
ENCODE, 0 to 6 for LOOKUP. -/
def selectorExists (op sel : BitVec 4) : Bool :=
  match op.toNat with
  | 2 => sel.toNat ≤ 1
  | 4 => sel.toNat ≤ 6
  | _ => sel.toNat = 0

/-- The clause of R172 that makes a word without a row illegal. -/
def illegalReason (c : Word) : Illegal :=
  if c.extractLsb' 12 20 ≠ 0 then .highBits
  else if 6 ≤ (opField c).toNat then .operation
  else if !selectorExists (opField c) (selField c) then .selector
  else .code

/-- The command a taken word stands for: the row it matches (R170), or the reason it is illegal (R172). -/
def decode (c : Word) : Except Illegal Instr :=
  match opcodeRows.find? (·.accepts c) with
  | some r => .ok (r.build (codeField c))
  | none => .error (illegalReason c)

/-- The command word of a well-formed command (R168, R171). -/
def encode : Instr → Word
  | .nop => commandWord 0x0 0 0
  | .decode => commandWord 0x1 0 0
  | .encodeCfg => commandWord 0x2 0 0
  | .encodeWork => commandWord 0x2 1 0
  | .plan => commandWord 0x3 0 0
  | .lookupPhy c => commandWord 0x4 0 c
  | .lookupBoot c => commandWord 0x4 1 c
  | .lookupSrc c => commandWord 0x4 2 c
  | .lookupXosc c => commandWord 0x4 3 c
  | .lookupPll c => commandWord 0x4 4 c
  | .lookupWait c => commandWord 0x4 5 c
  | .lookupSpeed c => commandWord 0x4 6 c
  | .update => commandWord 0x5 0 0

/-- The command word made of the low `nbits` bits of `w`, every higher bit zero. -/
def tableWord (nbits w : Nat) : Word := BitVec.ofNat 32 (w % 2 ^ nbits)

/-- What the decoder reads from an instruction whose bits are `w`, numbered as the opcode table numbers them. The one
command word is the instruction, so no byte order enters (R105, R168). -/
def decodeTableWord (nbits w : Nat) : Option Instr :=
  match decode (tableWord nbits w) with
  | .ok i => some i
  | .error _ => none

end Sys2Proof
end

