-- ==== Sys2Proof/Config.lean ====
section
/-! DEFINITION. The implementation parameters of spec 00_scope.md section 4 and the free values the spec leaves to the
environment (93_implementation_defined.md, treatment "any value" or "parameter"). A parameter or a free value is an
opaque constant: nothing can be proved about which value it has, so a claim holds whatever it is. -/

namespace Sys2Proof

/-- `MAX_XFER`, the transport's block-size ceiling in bytes (00_scope.md section 4; R113, R119). -/
def Config.maxXfer : Nat := 60

/-- `DIV_RESET`, the value DIV holds after reset: an OPEN parameter, any 32-bit value (R52, D13, I7). Log entry 1. -/
opaque Config.divReset : Word

/-- `EEPROM_ADDR`, the slave address at which the environment's EEPROM answers: an OPEN parameter, 0x00 to 0x7F
(R124, D36, I8). Log entry 2. -/
opaque Config.eepromAddr : SlaveAddr

/-- The names of the QSPI sub-fields inside the opaque payload `q` (R167, 90_conflicts.md C6). -/
inductive QspiSubfield where
  | quadSpiMode | port | clockSelect | clockPolarity | casLatency | porDelay | holdTime | phaseDelaySelect
  | dllTapIndex | dqsSelect
  deriving DecidableEq, Repr

/-- A layout of the sub-fields inside `q`: the bits of `q` that make up each sub-field, its lowest bit first. What R167
gives is in the type: every sub-field lies inside the 24 bits of `q`, and the quad-SPI mode has 3 bits. The defaults
only show that a layout exists. -/
structure QspiLayout where
  bits : QspiSubfield → List (Fin 24) := fun f => match f with
    | .quadSpiMode => [0, 1, 2]
    | .port | .clockSelect | .clockPolarity | .casLatency | .porDelay | .holdTime | .phaseDelaySelect | .dllTapIndex
    | .dqsSelect => []
  /-- "quad-SPI mode (3 bits)" (R167) -/
  mode_width : (bits .quadSpiMode).length = 3 := by decide
  /-- the bits of a sub-field are distinct bits of `q` -/
  bits_nodup : ∀ f, (bits f).Nodup := by intro f; cases f <;> decide
  deriving Inhabited

/-- `QSPI_SUBFIELDS`, the layout of the sub-fields inside `q`: an OPEN parameter for presentation only, on which no rule
depends (R167, D6, I5). Log entry 3. -/
opaque Config.qspiSubfields : QspiLayout

/-- The byte at a key of the EEPROM space that nothing has been recorded at: any value (I11). Two reads with no write
between them see the same byte (R115), so the free value depends on the key alone. Log entry 5. -/
opaque Config.priorByte : Nat → Byte

/-- The `n`-th byte drawn where the EEPROM's content is unknown: after a failed Write (I12, R114) and after a reset
that abandons a Write (I13, R452). Log entry 6. -/
opaque Config.freeByte : Nat → Byte

/-- The `n`-th error code drawn by the environment of R124 for an access to an address nobody answers at (I9, R122).
Log entry 7. -/
opaque Config.freeCode : Nat → Word

end Sys2Proof
end

