-- ==== Sys2Proof/Machine/State.lean ====
section
/-! DEFINITION. The state of the model as plain data: the block's registers and sequencing state (10_state.md R30), and
beside it the other two agents of R2, the host with its program and the transport with the EEPROM and the bus, and the
order in which the agents move (R125). R30 counts the last three as no state of the block; they are here so that one
deterministic step can show every event the spec describes. -/

namespace Sys2Proof.Machine

/-- The payload layouts a boot code selects (R31). -/
inductive Variant where
  | qspi | sd | mmc | rsvd
  deriving DecidableEq, Repr

/-- The boot-media-dependent part of a configuration (R32). -/
inductive Payload where
  | qspi (q : BitVec 24)
  | sd (wait : BitVec 3) (speed : BitVec 1)
  | mmc (wait : BitVec 3) (mode : BitVec 4)
  | rsvd
  deriving DecidableEq, Repr

/-- A decoded configuration: the common fields and the payload (R32). -/
structure Cfg where
  phy : BitVec 2
  boot : BitVec 3
  src : BitVec 1
  xosc : BitVec 1
  pll : BitVec 1
  pay : Payload
  deriving DecidableEq, Repr

/-- PHASE, the sequencing state of the update state machine and the block's only program counter (R36). Code 7 is
never held, so it has no constructor. -/
inductive Phase where
  | idle | query | cancel | config | read | write | readback
  deriving DecidableEq, Repr

/-- ERRCLASS, the class of the last error (R401). Codes 9 to 15 are never produced, so they have no constructor. -/
inductive ErrClass where
  | none | invalidAddress | busStateQueryFailed | busConfigurationFailed | txnReadFailed | txnWriteFailed
  | shortRead | illegalCommand | illegalTarget
  deriving DecidableEq, Repr

/-- A request the block places on the transport port (R117). -/
inductive Request where
  | query
  | cancel
  | configure (div : Word)
  | read (addr : SlaveAddr) (offset : BitVec 8) (length : BitVec 8)
  | write (addr : SlaveAddr) (offset : BitVec 8) (bytes : List Byte)
  deriving DecidableEq, Repr

/-- A response of the transport; which request admits which is R119's table, in Ops. -/
inductive Response where
  | idle
  | busy
  | ack
  | ok
  | data (bytes : List Byte)
  | err (code : Word)
  deriving DecidableEq, Repr

/-- The configuration fields the delta registers and DMASK name, in the order of their ids 1 to 9 (R49). -/
inductive FieldId where
  | src | boot | qspiQ | speed | wait | mmcMode | phy | xosc | pll
  deriving DecidableEq, Repr

/-- Nine registers, one for each field id: the shape of DOLD[1..9] and of DNEW[1..9] (R62). -/
structure FieldRegs where
  src : Word
  boot : Word
  qspiQ : Word
  speed : Word
  wait : Word
  mmcMode : Word
  phy : Word
  xosc : Word
  pll : Word
  deriving DecidableEq, Repr

/-- The state of the block, exactly R30's. STATUS is held as its stored fields; BUSY and STATUS.PHASE are views of
PHASE (R40, R47) and the word a host reads is `Block.statusWord` in Flags. CMD holds no value (R38). -/
structure Block where
  /-- PHASE (R36) -/
  phase : Phase
  /-- REQ, the outstanding transport request (R37) -/
  req : Option Request
  /-- STATUS.DONE (R41) -/
  done : Bool
  /-- STATUS.ERR (R42) -/
  err : Bool
  /-- STATUS.CHANGED (R43) -/
  changed : Bool
  /-- STATUS.WROTE (R44) -/
  wrote : Bool
  /-- STATUS.VMISMATCH (R45) -/
  vmismatch : Bool
  /-- STATUS.OVR (R46) -/
  ovr : Bool
  /-- STATUS.ERRCLASS (R42, R401) -/
  errClass : ErrClass
  /-- STATUS.NREAD (R47) -/
  nread : BitVec 2
  /-- STATUS.NWRITE (R47) -/
  nwrite : BitVec 1
  /-- ERRCODE (R48) -/
  errCode : Word
  /-- ADDR (R50) -/
  addr : SlaveAddr
  /-- TARGET (R51) -/
  target : BitVec 3
  /-- DIV (R52) -/
  div : Word
  /-- RAW (R53) -/
  raw : Word
  /-- CFG (R54 to R57) -/
  cfg : Cfg
  /-- WORK (R58) -/
  work : Cfg
  /-- WOUT (R59) -/
  wout : Word
  /-- RDBK (R60) -/
  rdbk : Word
  /-- DMASK (R61) -/
  dmask : Word
  /-- LKP (R63) -/
  lkp : Word
  /-- DOLD[1..9] (R62) -/
  dold : FieldRegs
  /-- DNEW[1..9] (R62) -/
  dnew : FieldRegs
  deriving DecidableEq, Repr

/-- One operation of a host program (R175). An access carries its offset and its width in bits, so that the accesses
R107 refuses can be written down. -/
inductive HostOp where
  /-- HostWrite(off, v) (R112) -/
  | write (off : BitVec 8) (width : Nat) (v : Word)
  /-- HostRead(off) (R111) -/
  | read (off : BitVec 8) (width : Nat)
  /-- WAITIDLE: read STATUS until bit 0 reads 0 (R176) -/
  | waitIdle
  deriving DecidableEq, Repr

/-- The host agent: the operations it has left, and the value its last HostRead returned (R111). -/
structure HostAgent where
  program : List HostOp
  data : Word
  deriving DecidableEq, Repr

/-- The state of the bus as Query reports it (R124). -/
inductive BusState where
  | idle | busy
  deriving DecidableEq, Repr

/-- The recorded bytes of the EEPROM space, by key: rising keys, see `Memory.wf` in Ops (R102). -/
abbrev Memory := List Host.Cell

/-- The transport agent with the EEPROM and the bus behind it (R2, R124). `eeprom` lists the recorded bytes of the
EEPROM space by key (Ops); `abandoned` lists the requests a reset abandoned whose response may still come, oldest
first (R452); `draws` counts the free values drawn so far. -/
structure Transport where
  eeprom : Memory
  bus : BusState
  abandoned : List Request
  draws : Nat
  deriving DecidableEq, Repr

/-- Which agent moves next, and with what input: one entry of the total order of R125. -/
inductive Turn where
  /-- The host performs the next operation of its program (R109). -/
  | host
  /-- The transport answers the outstanding request with a response the environment draws (R119, R122). -/
  | answer (p : Response)
  /-- The transport answers the outstanding request as the environment of R124 does. -/
  | environment
  /-- The transport answers the abandoned request at a position of the list of those still unanswered (R121, R452). -/
  | lateAnswer (i : Nat) (p : Response)
  /-- The reset event (R450). -/
  | reset
  /-- Bytes of the EEPROM change without an acknowledged Write of the block: another writer (R128, I26), or an
  abandoned Write that lands late (R452). -/
  | eepromChange (addr : SlaveAddr) (offset : BitVec 8) (bytes : List Byte)
  deriving DecidableEq, Repr

/-- The state of the whole model: the three agents of R2 and the order of the moves still to come (R125). -/
structure State where
  block : Block
  host : HostAgent
  transport : Transport
  turns : List Turn
  deriving DecidableEq, Repr

/-- Why the machine stops with a fault. The block itself has no fault that stops it: its errors are next states with
STATUS.ERR set (R403). -/
inductive Fault where
  /-- Raised by a transport response that the outstanding request admits and the current PHASE has no transition for.
  R37 makes PHASE name the request's kind, so no run reaches it; safe, since the model only stops. -/
  | phaseRequestMismatch
  deriving DecidableEq, Repr

/-- Why the model gives an event no step. -/
inductive Refusal where
  /-- Raised by an arm of exec for a command without a meaning; every command has one. Safe. -/
  | notModelled (mnemonic : String)
  /-- Raised by a host access at an offset that is not a multiple of 4: "it has no meaning in this spec, and a model
  gives it no step" (R107, I18). Safe: the model stops. -/
  | misalignedAccess
  /-- Raised by a host access of a width other than 32 bits (R107, I18). Safe: the model stops. -/
  | accessWidth
  /-- Raised by a response of the transport when no request is outstanding (R121, I16). The spec assumes that it does
  not happen, so claims do not cover a transport that does it: unsafe there, as R121 itself says. -/
  | noOutstandingRequest
  /-- Raised by a response of a kind that the request it answers, outstanding or abandoned, does not admit (R119, R121,
  I16). Unsafe in the same sense. -/
  | responseNotAdmitted
  /-- Raised by a late response to an abandoned request that does not exist or was answered already: the transport
  "never answers twice" (R121). Unsafe in the same sense. -/
  | noAbandonedRequest
  deriving DecidableEq, Repr

/-- decode(0x00000000), the reset value of CFG and WORK (R54, R65). -/
def Cfg.reset : Cfg := { phy := 0, boot := 0, src := 0, xosc := 0, pll := 0, pay := .qspi 0 }

/-- The reset value of DOLD[1..9] and DNEW[1..9] (R65). -/
def FieldRegs.reset : FieldRegs :=
  { src := 0, boot := 0, qspiQ := 0, speed := 0, wait := 0, mmcMode := 0, phy := 0, xosc := 0, pll := 0 }

/-- The block right after reset: every piece of state at the value of R65's table (R450). -/
def Block.reset : Block :=
  { phase := .idle, req := none
    done := false, err := false, changed := false, wrote := false, vmismatch := false, ovr := false
    errClass := .none, nread := 0, nwrite := 0, errCode := 0
    addr := 0x50, target := 2, div := Config.divReset
    raw := 0, cfg := .reset, work := .reset, wout := 0, rdbk := 0, dmask := 0, lkp := 0
    dold := .reset, dnew := .reset }

/-- The machine right after reset. The block is as R65 says; the host has no operation left and has read nothing, the
EEPROM has no recorded byte, no move is scheduled, and the bus is Idle (log entries 4, 5 and 8). -/
def State.reset : State :=
  { block := .reset
    host := { program := [], data := 0 }
    transport := { eeprom := [], bus := .idle, abandoned := [], draws := 0 }
    turns := [] }

end Sys2Proof.Machine
end

