-- ==== Sys2Proof/Machine/Operands.lean ====
section
/-! DEFINITION. The forms in which values stand in words: bit fields (00_scope.md R6), the little-endian byte image
(R7), the QSPI payload's gather and scatter (30_encoding.md R165, R166), the variants and their masks (R31, R155), the
host views of a configuration (R54, R55) and the delta registers' encoding of a field (R49, R62). -/

namespace Sys2Proof.Machine

/-- `w[lo+n-1:lo]`: the n-bit field of a word whose lowest bit is bit `lo` (R4, R6). -/
def getBits (w : Word) (lo n : Nat) : BitVec n := w.extractLsb' lo n

/-- `put(v, lo, n)`: the n-bit value `v` at bit `lo` of an otherwise zero word (R6). -/
def putBits {n : Nat} (v : BitVec n) (lo : Nat) : Word := v.setWidth 32 <<< lo

/-- `LE(b0, b1, b2, b3)`, `b0` being the byte at sub-address offset 0 (R7, R104). -/
def wordLE (b0 b1 b2 b3 : Byte) : Word := putBits b0 0 ||| putBits b1 8 ||| putBits b2 16 ||| putBits b3 24

/-- `bytesLE(w)`, the first list element going to offset 0 (R7, R104). -/
def bytesLE (w : Word) : List Byte := [getBits w 0 8, getBits w 8 8, getBits w 16 8, getBits w 24 8]

/-- `gatherQ(w)`: the QSPI payload bits 4:2, 15:9 and 30:17 in ascending order (R165). -/
def gatherQ (w : Word) : BitVec 24 := getBits w 17 14 ++ getBits w 9 7 ++ getBits w 2 3

/-- `scatterQ(q)`: the QSPI payload at its places in the word (R166). -/
def scatterQ (q : BitVec 24) : Word :=
  putBits (q.extractLsb' 0 3) 2 ||| putBits (q.extractLsb' 3 7) 9 ||| putBits (q.extractLsb' 10 14) 17

/-- The bits of a sub-field of `q` under a layout, lowest first. No command reads a sub-field: the spec gives none a
position, and a reader that needs one takes the layout `Config.qspiSubfields` (R167). -/
def qspiSubfieldBits (l : QspiLayout) (f : QspiSubfield) (q : BitVec 24) : List Bool :=
  (l.bits f).map (fun i => q.getLsbD i.val)

/-- `variantOf(b)`: the variant a boot code selects (R31). -/
def variantOf (b : BitVec 3) : Variant :=
  match b.toNat with
  | 0 => .qspi
  | 2 => .sd
  | 3 => .mmc
  | _ => .rsvd

/-- The 2-bit tag code of a variant (R31). -/
def Variant.tag : Variant → BitVec 2
  | .qspi => 0
  | .sd => 1
  | .mmc => 2
  | .rsvd => 3

/-- The variant a payload belongs to (R32). -/
def Payload.variant : Payload → Variant
  | .qspi _ => .qspi
  | .sd _ _ => .sd
  | .mmc _ _ => .mmc
  | .rsvd => .rsvd

/-- A configuration is well-formed when its payload is the alternative its boot code selects (R32). -/
def Cfg.wf (c : Cfg) : Bool := c.pay.variant = variantOf c.boot

/-- `zeroPayload(v)`: the all-zero payload of a variant (R33). -/
def zeroPayload : Variant → Payload
  | .qspi => .qspi 0
  | .sd => .sd 0 0
  | .mmc => .mmc 0 0
  | .rsvd => .rsvd

/-- `KEEP(v)`: the bits of the word that variant `v` gives meaning to (R155). -/
def keepMask : Variant → Word
  | .qspi => 0xFFFFFFFF
  | .sd => 0x801F01E3
  | .mmc => 0x80FF01E3
  | .rsvd => 0x800101E3

/-- `view0(c)`: what a host reads of the common fields at CFG0 or WORK0 (R54). -/
def view0 (c : Cfg) : Word :=
  ((variantOf c.boot).tag ++ c.pll ++ c.xosc ++ c.src ++ c.boot ++ c.phy : BitVec 10).setWidth 32

/-- `view1(c)`: what a host reads of the payload at CFG1 or WORK1 (R55). -/
def view1 (c : Cfg) : Word :=
  match c.pay with
  | .qspi q => q.setWidth 32
  | .sd wait speed => (speed ++ wait : BitVec 4).setWidth 32
  | .mmc wait mode => (mode ++ wait : BitVec 7).setWidth 32
  | .rsvd => 0

/-- A taken host write of `d` to CFG0: the common fields, and the payload reset when the variant changes (R56). -/
def writeView0 (c : Cfg) (d : Word) : Cfg :=
  let nb := getBits d 2 3
  { phy := getBits d 0 2, boot := nb, src := getBits d 5 1, xosc := getBits d 6 1, pll := getBits d 7 1
    pay := if variantOf nb = variantOf c.boot then c.pay else zeroPayload (variantOf nb) }

/-- A taken host write of `d` to CFG1: the active variant's fields and no other bit (R57). -/
def writeView1 (c : Cfg) (d : Word) : Cfg :=
  { c with
    pay := match c.pay with
      | .qspi _ => .qspi (getBits d 0 24)
      | .sd _ _ => .sd (getBits d 0 3) (getBits d 3 1)
      | .mmc _ _ => .mmc (getBits d 0 3) (getBits d 3 4)
      | .rsvd => .rsvd }

/-- The number of a field id, 1 to 9 (R49). -/
def FieldId.number : FieldId → Nat
  | .src => 1
  | .boot => 2
  | .qspiQ => 3
  | .speed => 4
  | .wait => 5
  | .mmcMode => 6
  | .phy => 7
  | .xosc => 8
  | .pll => 9

/-- The field ids in the order of their numbers (R49). -/
def FieldId.all : List FieldId := [.src, .boot, .qspiQ, .speed, .wait, .mmcMode, .phy, .xosc, .pll]

/-- `fieldVal(c, f)`, the value of a field zero-extended to a word, or none where the active variant lacks it
(ABSENT, R49). -/
def fieldVal (c : Cfg) : FieldId → Option Word
  | .src => some (c.src.setWidth 32)
  | .boot => some (c.boot.setWidth 32)
  | .qspiQ => match c.pay with
    | .qspi q => some (q.setWidth 32)
    | .sd _ _ | .mmc _ _ | .rsvd => none
  | .speed => match c.pay with
    | .sd _ speed => some (speed.setWidth 32)
    | .qspi _ | .mmc _ _ | .rsvd => none
  | .wait => match c.pay with
    | .sd wait _ => some (wait.setWidth 32)
    | .mmc wait _ => some (wait.setWidth 32)
    | .qspi _ | .rsvd => none
  | .mmcMode => match c.pay with
    | .mmc _ mode => some (mode.setWidth 32)
    | .qspi _ | .sd _ _ | .rsvd => none
  | .phy => some (c.phy.setWidth 32)
  | .xosc => some (c.xosc.setWidth 32)
  | .pll => some (c.pll.setWidth 32)

/-- `enc`: bit 31 is PRESENT, the value stands below it, and ABSENT is 0 (R62). -/
def encField : Option Word → Word
  | none => 0x00000000
  | some v => 0x80000000 ||| v

/-- The register of field `f` among nine (R62). -/
def FieldRegs.get (r : FieldRegs) : FieldId → Word
  | .src => r.src
  | .boot => r.boot
  | .qspiQ => r.qspiQ
  | .speed => r.speed
  | .wait => r.wait
  | .mmcMode => r.mmcMode
  | .phy => r.phy
  | .xosc => r.xosc
  | .pll => r.pll

/-- All nine registers written with `enc(fieldVal(c, f))` (R62, R293). -/
def FieldRegs.ofCfg (c : Cfg) : FieldRegs :=
  { src := encField (fieldVal c .src), boot := encField (fieldVal c .boot), qspiQ := encField (fieldVal c .qspiQ)
    speed := encField (fieldVal c .speed), wait := encField (fieldVal c .wait)
    mmcMode := encField (fieldVal c .mmcMode), phy := encField (fieldVal c .phy)
    xosc := encField (fieldVal c .xosc), pll := encField (fieldVal c .pll) }

end Sys2Proof.Machine
end

