-- ==== Sys2Proof/Machine/Flags.lean ====
section
/-! DEFINITION. STATUS: its fields as a host reads them (10_state.md R39 to R47) and the changes that commands make to
them in common (40_command.md R201). -/

namespace Sys2Proof.Machine

/-- The 3-bit code of a phase (R36). -/
def Phase.code : Phase → BitVec 3
  | .idle => 0
  | .query => 1
  | .cancel => 2
  | .config => 3
  | .read => 4
  | .write => 5
  | .readback => 6

/-- The 4-bit ERRCLASS value of an error class (R401). -/
def ErrClass.code : ErrClass → BitVec 4
  | .none => 0
  | .invalidAddress => 1
  | .busStateQueryFailed => 2
  | .busConfigurationFailed => 3
  | .txnReadFailed => 4
  | .txnWriteFailed => 5
  | .shortRead => 6
  | .illegalCommand => 7
  | .illegalTarget => 8

/-- STATUS.BUSY: "1 exactly when PHASE is not IDLE" (R40). -/
def Block.busy (b : Block) : Bool := b.phase != .idle

/-- The word a host reads at STATUS: NWRITE 18, NREAD 17:16, PHASE 14:12, ERRCLASS 11:8, OVR 6, VMISMATCH 5, WROTE 4,
CHANGED 3, ERR 2, DONE 1, BUSY 0; bits 7, 15 and 31:19 read 0 (R39). -/
def Block.statusWord (b : Block) : Word :=
  (0#13 ++ b.nwrite ++ b.nread ++ 0#1 ++ b.phase.code ++ b.errClass.code ++ 0#1 ++ BitVec.ofBool b.ovr
    ++ BitVec.ofBool b.vmismatch ++ BitVec.ofBool b.wrote ++ BitVec.ofBool b.changed ++ BitVec.ofBool b.err
    ++ BitVec.ofBool b.done ++ BitVec.ofBool b.busy : BitVec 32)

/-- What the take of any command word, legal or not, clears first: DONE, ERR, ERRCLASS, OVR and ERRCODE (R201). It is
also the only way but a reset that an error record ends (R406). -/
def Block.clearForTake (b : Block) : Block :=
  { b with done := false, err := false, errClass := .none, ovr := false, errCode := 0 }

/-- `STATUS.DONE <- 1`, the completion of a pure command (R41, R203). -/
def Block.setDone (b : Block) : Block := { b with done := true }

end Sys2Proof.Machine
end

