-- ==== Sys2Proof/Machine/Ops.lean ====
section
/-! DEFINITION. The operations the meanings share: taking a command (40_command.md R200, R201), raising an error
(60_exceptions.md R403) and ending a run (44_update_fsm.md R332), the transport port (20_memory.md R116 to R119), and
the bytes of the EEPROM space (R102). -/

namespace Sys2Proof.Machine

/-- The three outcomes of a step of this machine. -/
abbrev Result := Host.Outcome State Fault Refusal

/-! The bytes of the EEPROM space. -/

/-- The key of an EEPROM byte: the 7-bit slave address above the 8-bit sub-address offset (R102). -/
def eepromKey (addr : SlaveAddr) (off : BitVec 8) : Nat := addr.toNat * 256 + off.toNat

/-- The byte recorded at a key, none where nothing has been recorded (log entry 5). -/
def eepromLookup : List Host.Cell → Nat → Option Byte
  | [], _ => none
  | (k, b) :: m, a => if a = k then some b else eepromLookup m a

/-- The byte a read of a key gives: the recorded one, or the free value of that key (I11, R115). -/
def eepromRead (m : Memory) (a : Nat) : Byte := (eepromLookup m a).getD (Config.priorByte a)

/-- Record a byte at a key, keeping the keys strictly rising. -/
def eepromWrite : List Host.Cell → Nat → Byte → List Host.Cell
  | [], a, v => [(a, v)]
  | (k, b) :: m, a, v =>
    if a < k then (a, v) :: (k, b) :: m
    else if a = k then (a, v) :: m
    else (k, b) :: eepromWrite m a v

/-- Record bytes of a slave at successive sub-address offsets, the first list element at the lowest (R7, R117). An
offset is 8 bits wide (R102), so the sub-address counts within it. -/
def eepromWriteBytes (m : Memory) (addr : SlaveAddr) (off : BitVec 8) : List Byte → List Host.Cell
  | [] => m
  | b :: bs => eepromWriteBytes (eepromWrite m (eepromKey addr off) b) addr (off + 1) bs

/-- The bytes of a slave at `n` successive sub-address offsets. -/
def eepromReadBytes (m : Memory) (addr : SlaveAddr) (off : BitVec 8) : Nat → List Byte
  | 0 => []
  | n + 1 => eepromRead m (eepromKey addr off) :: eepromReadBytes m addr (off + 1) n

/-- The keys of `n` bytes of a slave at successive sub-address offsets: where a Write of `n` bytes stores. -/
def eepromKeys (addr : SlaveAddr) (off : BitVec 8) : Nat → List Nat
  | 0 => []
  | n + 1 => eepromKey addr off :: eepromKeys addr (off + 1) n

/-- Every key of the list is at least `lo`, the keys rise strictly, and each is a key of the EEPROM space. -/
def eepromRisingFrom (lo : Nat) : List Host.Cell → Bool
  | [] => true
  | (k, _) :: m => decide (lo ≤ k) && decide (k < 0x8000) && eepromRisingFrom (k + 1) m

/-- The canonical form of the recorded bytes: keys strictly rising within the 15-bit EEPROM space (R102). A key that is
not listed has no recorded value, so no entry can equal it, and equal contents are equal lists. -/
def Memory.wf (m : Memory) : Bool := eepromRisingFrom 0 m

/-! The transport port. -/

/-- Which responses a request admits (R119): a `Data` list may have any length from 0 to MAX_XFER. -/
def Request.admits (r : Request) (p : Response) : Bool :=
  match r with
  | .query => match p with
    | .idle | .busy | .err _ => true
    | .ack | .ok | .data _ => false
  | .cancel => match p with
    | .ack => true
    | .idle | .busy | .ok | .data _ | .err _ => false
  | .configure _ => match p with
    | .ok | .err _ => true
    | .idle | .busy | .ack | .data _ => false
  | .read _ _ _ => match p with
    | .data bs => decide (bs.length ≤ Config.maxXfer)
    | .err _ => true
    | .idle | .busy | .ack | .ok => false
  | .write _ _ _ => match p with
    | .ok | .err _ => true
    | .idle | .busy | .ack | .data _ => false

/-- `Request(r)`: REQ <- r (R118). -/
def Block.place (b : Block) (r : Request) : Block := { b with req := some r }

/-- The Read of the RCW, at offset 0 and of 4 bytes (R108, R117). -/
def Block.readRequest (b : Block) : Request := .read b.addr 0 4

/-- The Write of a whole new word, at offset 0 and of 4 bytes (R108, R117, R327). -/
def Block.writeRequest (b : Block) (w : Word) : Request := .write b.addr 0 (bytesLE w)

/-! Ending a command or a run. -/

/-- `raise Error(k, c)`: ERR, ERRCLASS and ERRCODE record the error, DONE is cleared, and a run in progress ends. This
is the block's whole exception entry: no vector, no saved state (R403, R405). -/
def Block.raiseError (b : Block) (k : ErrClass) (c : Word) : Block :=
  { b with
    err := true, errClass := k, errCode := c, done := false
    phase := if b.busy then .idle else b.phase
    req := if b.busy then none else b.req }

/-- `finish()`: a run ends without error (R332). -/
def Block.finish (b : Block) : Block := { b with phase := .idle, req := none, done := true }

/-- A host write that is dropped because a run is in progress: only OVR is set (R112, R46). -/
def Block.dropWrite (b : Block) : Block := { b with ovr := true }

/-! Taking a command. -/

/-- The cycle every command word goes through: dropped while BUSY (R200), else cleared (R201) and then given its own
effect, which reads the registers as they were before the step since the clearing touches none of them. -/
def takeCommand (effect : Block → Block) (s : State) : Result :=
  if s.block.busy then .next { s with block := s.block.dropWrite }
  else .next { s with block := effect s.block.clearForTake }

/-- A pure command: its effect and DONE in the step of its take (R203). -/
def pureCommand (effect : Block → Block) (s : State) : Result := takeCommand (fun b => (effect b).setDone) s

/-- The take of a word that matches no row: ILLEGAL_COMMAND with code 0 after the clearing (R204). -/
def takeIllegal (s : State) : Result := takeCommand (fun b => b.raiseError .illegalCommand 0) s

end Sys2Proof.Machine
end

