-- ==== Sys2Proof/Machine/Command.lean ====
section
/-! DEFINITION. NOP (40_command.md R205). -/

namespace Sys2Proof.Machine

/-- NOP: the clearing of the take and DONE, no other effect (R205). -/
def execNop (s : State) : Result := pureCommand (fun b => b) s

end Sys2Proof.Machine
end

