-- ==== Sys2Proof/Machine/Descriptors.lean ====
section
/-! DEFINITION. The descriptor tables and the LOOKUP commands (42_descriptors.md). -/

namespace Sys2Proof.Machine

/-- The seven tables, in the order of their numbers 0 to 6 (R261). -/
inductive Table where
  | phy | boot | src | xosc | pll | wait | speed
  deriving DecidableEq, Repr

/-- The number of a table (R261). -/
def Table.number : Table → BitVec 4
  | .phy => 0
  | .boot => 1
  | .src => 2
  | .xosc => 3
  | .pll => 4
  | .wait => 5
  | .speed => 6

/-- The label a table gives a code, none where it has no entry (R261, R157 to R163). The block outputs no text: only
whether a label exists is visible. -/
def label (t : Table) (c : BitVec 4) : Option String :=
  match t, c.toNat with
  | .phy, 0 => some "RMII"
  | .phy, 1 => some "SGMII"
  | .phy, 2 => some "RGMII"
  | .phy, 3 => some "NoPHY"
  | .boot, 0 => some "QSPI"
  | .boot, 2 => some "SD"
  | .boot, 3 => some "MMC"
  | .src, 0 => some "Parallel"
  | .src, 1 => some "I2C"
  | .xosc, 0 => some "Differential/Crystal"
  | .xosc, 1 => some "Bypass"
  | .pll, 0 => some "PLL-at-IRC"
  | .pll, 1 => some "IRC-at-48MHz"
  | .wait, 0 => some "0 ms"
  | .wait, 1 => some "5 ms"
  | .wait, 2 => some "10 ms"
  | .wait, 3 => some "20 ms"
  | .wait, 4 => some "35 ms"
  | .wait, 7 => some "50 ms"
  | .speed, 0 => some "Default"
  | .speed, 1 => some "High"
  | _, _ => none

/-- `known(t, c)`: the table gives the code a label (R262). -/
def known (t : Table) (c : BitVec 4) : Bool := (label t c).isSome

/-- `waitMs(c)`: the duration of a wait code in milliseconds, none for a code the table does not know (R263). -/
def waitMs (c : BitVec 4) : Option (BitVec 8) :=
  match c.toNat with
  | 0 => some 0
  | 1 => some 5
  | 2 => some 10
  | 3 => some 20
  | 4 => some 35
  | 7 => some 50
  | _ => none

/-- The MS field of a lookup: the duration when the table is WAIT and the code is known, else 0 (R262, R63). -/
def lookupMs (t : Table) (c : BitVec 4) : BitVec 8 := if t = .wait then (waitMs c).getD 0 else 0

/-- LKP of a lookup: MS 23:16, KNOWN 8, CODE 7:4, TABLE 3:0, every other bit 0 (R262, R63). -/
def lookupWord (t : Table) (c : BitVec 4) : Word :=
  (0#8 ++ lookupMs t c ++ 0#7 ++ BitVec.ofBool (known t c) ++ c ++ t.number : BitVec 32)

/-- Every LOOKUP command: LKP and DONE (R262). -/
def lookupCommand (t : Table) (c : BitVec 4) (s : State) : Result :=
  pureCommand (fun b => { b with lkp := lookupWord t c }) s

/-- LOOKUP.PHY c (R270). -/
def execLookupPhy (c : BitVec 4) (s : State) : Result := lookupCommand .phy c s

/-- LOOKUP.BOOT c (R271). -/
def execLookupBoot (c : BitVec 4) (s : State) : Result := lookupCommand .boot c s

/-- LOOKUP.SRC c (R272). -/
def execLookupSrc (c : BitVec 4) (s : State) : Result := lookupCommand .src c s

/-- LOOKUP.XOSC c (R273). -/
def execLookupXosc (c : BitVec 4) (s : State) : Result := lookupCommand .xosc c s

/-- LOOKUP.PLL c (R274). -/
def execLookupPll (c : BitVec 4) (s : State) : Result := lookupCommand .pll c s

/-- LOOKUP.WAIT c (R275). -/
def execLookupWait (c : BitVec 4) (s : State) : Result := lookupCommand .wait c s

/-- LOOKUP.SPEED c (R276). -/
def execLookupSpeed (c : BitVec 4) (s : State) : Result := lookupCommand .speed c s

end Sys2Proof.Machine
end

