-- ==== Sys2Proof/Machine/Codec.lean ====
section
/-! DEFINITION. The codec between the RCW and a configuration, and its commands (41_codec.md). -/

namespace Sys2Proof.Machine

/-- The payload fields of a word under a variant (R151 to R154). -/
def decodePayload (v : Variant) (w : Word) : Payload :=
  match v with
  | .qspi => .qspi (gatherQ w)
  | .sd => .sd (getBits w 17 3) (getBits w 20 1)
  | .mmc => .mmc (getBits w 17 3) (getBits w 20 4)
  | .rsvd => .rsvd

/-- `decode(w)`: the common fields by fixed position, then the payload fields of the variant the boot code selects
(R230). Total: every word decodes (R231). -/
def decodeRcw (w : Word) : Cfg :=
  { phy := getBits w 0 2, boot := getBits w 5 3, src := getBits w 8 1, xosc := getBits w 16 1, pll := getBits w 31 1
    pay := decodePayload (variantOf (getBits w 5 3)) w }

/-- The payload fields at their places in an otherwise zero word (R232). -/
def encodePayload : Payload → Word
  | .qspi q => scatterQ q
  | .sd wait speed => putBits wait 17 ||| putBits speed 20
  | .mmc wait mode => putBits wait 17 ||| putBits mode 20
  | .rsvd => 0

/-- `encode(c)`: the common fields and the payload fields, every other bit 0 (R232). -/
def encodeRcw (c : Cfg) : Word :=
  putBits c.phy 0 ||| putBits c.boot 5 ||| putBits c.src 8 ||| putBits c.xosc 16 ||| putBits c.pll 31
    ||| encodePayload c.pay

/-- DECODE: `CFG <- decode(RAW)` (R233). -/
def execDecode (s : State) : Result := pureCommand (fun b => { b with cfg := decodeRcw b.raw }) s

/-- ENCODE.CFG: `WOUT <- encode(CFG)` (R234). -/
def execEncodeCfg (s : State) : Result := pureCommand (fun b => { b with wout := encodeRcw b.cfg }) s

/-- ENCODE.WORK: `WOUT <- encode(WORK)` (R235). -/
def execEncodeWork (s : State) : Result := pureCommand (fun b => { b with wout := encodeRcw b.work }) s

end Sys2Proof.Machine
end

