-- ==== Sys2Proof/Machine/Policy.lean ====
section
/-! DEFINITION. The update policy: the plan, the delta and PLAN (43_update_policy.md). -/

namespace Sys2Proof.Machine

/-- Step 1: the configuration source must be I2C (R291). -/
def planSource (w : Cfg) : Cfg := if w.src ≠ 1 then { w with src := 1 } else w

/-- Step 2: a switch of boot media clears the payload to the target's variant before the boot field changes. It
compares boot codes, not variants (R291, R292). -/
def planBoot (t : BitVec 3) (w : Cfg) : Cfg :=
  if w.boot ≠ t then { w with pay := zeroPayload (variantOf t), boot := t } else w

/-- Step 3: under SD, speed High and the 50 ms wait code (R291). -/
def planSd (w : Cfg) : Cfg :=
  if variantOf w.boot = .sd then
    match w.pay with
    | .sd wait speed =>
      { w with pay := .sd (if wait ≠ 7 then 7 else wait) (if speed ≠ 1 then 1 else speed) }
    | .qspi _ | .mmc _ _ | .rsvd => w
  else w

/-- `plan(orig, t)`: the three steps in order, each reading the working copy as the earlier ones left it (R291). -/
def plan (orig : Cfg) (t : BitVec 3) : Cfg := planSd (planBoot t (planSource orig))

/-- DMASK of a pair of delta registers: bit f is set iff the registers of field f differ, every other bit 0 (R293,
R61). -/
def deltaMask (o n : FieldRegs) : Word :=
  let d (f : FieldId) : BitVec 1 := BitVec.ofBool (o.get f != n.get f)
  (d .pll ++ d .xosc ++ d .phy ++ d .mmcMode ++ d .wait ++ d .speed ++ d .qspiQ ++ d .boot ++ d .src ++ 0#1
    : BitVec 10).setWidth 32

/-- The plan step: `w := plan(orig, TARGET); WORK <- w; delta(orig, w); CHANGED <- (DMASK != 0)` (R296, R327). -/
def Block.planFrom (b : Block) (orig : Cfg) : Block :=
  let w := plan orig b.target
  let o := FieldRegs.ofCfg orig
  let n := FieldRegs.ofCfg w
  { b with work := w, dold := o, dnew := n, dmask := deltaMask o n, changed := deltaMask o n != 0 }

/-- PLAN: the plan step on CFG (R296). -/
def execPlan (s : State) : Result := pureCommand (fun b => b.planFrom b.cfg) s

end Sys2Proof.Machine
end

