-- ==== Sys2Proof/Machine/Update.lean ====
section
/-! DEFINITION. UPDATE and the read-modify-write state machine (44_update_fsm.md). Each phase has its own reaction to a
response; none stands for a response the phase has no transition for, which R37 and R119 rule out. -/

namespace Sys2Proof.Machine

/-- The take of UPDATE, after the clearing of R201: the run's flags, counters and DMASK are cleared, PHASE becomes
QUERY and the Query is placed (R320). -/
def Block.startRun (b : Block) : Block :=
  { b with
    changed := false, wrote := false, vmismatch := false, nread := 0, nwrite := 0, dmask := 0
    phase := .query, req := some .query }

/-- UPDATE (R320). -/
def execUpdate (s : State) : Result := takeCommand Block.startRun s

/-- `PHASE <- CONFIG; Request(Configure(DIV))` (R321, R322). -/
def Block.enterConfig (b : Block) : Block := { b with phase := .config, req := some (.configure b.div) }

/-- Phase QUERY (R321). -/
def Block.onQuery (b : Block) : Response → Option Block
  | .err c => some (b.raiseError .busStateQueryFailed c)
  | .idle => some b.enterConfig
  | .busy => some { b with phase := .cancel, req := some .cancel }
  | .ack | .ok | .data _ => none

/-- Phase CANCEL: the bus state is not queried again (R322). -/
def Block.onCancel (b : Block) : Response → Option Block
  | .ack => some b.enterConfig
  | .idle | .busy | .ok | .data _ | .err _ => none

/-- Phase CONFIG (R323). -/
def Block.onConfig (b : Block) : Response → Option Block
  | .err c => some (b.raiseError .busConfigurationFailed c)
  | .ok => some { b with phase := .read, nread := 1, req := some b.readRequest }
  | .idle | .busy | .ack | .data _ => none

/-- SHORT_READ with the number of bytes received as its code (R325, R402). -/
def Block.raiseShortRead (b : Block) (bs : List Byte) : Block := b.raiseError .shortRead (BitVec.ofNat 32 bs.length)

/-- The four bytes of the word read in phase READ: RAW and CFG are stored (R326) and the plan step follows in the same
step, ending the run when the delta is empty and else placing the Write of the whole new word (R327, R328). -/
def Block.onWordRead (b : Block) (r : Word) : Block :=
  let p := { b with raw := r, cfg := decodeRcw r }.planFrom (decodeRcw r)
  if p.changed then
    { p with
      wout := encodeRcw p.work, phase := .write, nwrite := 1, req := some (p.writeRequest (encodeRcw p.work)) }
  else p.finish

/-- The bytes of a Data response: a word when there are exactly four, else SHORT_READ (R325, R330). -/
def Block.onData (b : Block) (onWord : Word → Block) (bs : List Byte) : Block :=
  match bs with
  | [b0, b1, b2, b3] => onWord (wordLE b0 b1 b2 b3)
  | bs => b.raiseShortRead bs

/-- Phase READ (R324 to R327). -/
def Block.onRead (b : Block) : Response → Option Block
  | .err c => some (b.raiseError .txnReadFailed c)
  | .data bs => some (b.onData b.onWordRead bs)
  | .idle | .busy | .ack | .ok => none

/-- Phase WRITE (R329). -/
def Block.onWrite (b : Block) : Response → Option Block
  | .err c => some (b.raiseError .txnWriteFailed c)
  | .ok => some { b with wrote := true, phase := .readback, nread := 2, req := some b.readRequest }
  | .idle | .busy | .ack | .data _ => none

/-- The word read back: RDBK, CFG from what persisted, VMISMATCH, and the end of the run (R331). -/
def Block.onWordReadBack (b : Block) (r : Word) : Block :=
  { b with rdbk := r, cfg := decodeRcw r, vmismatch := r != b.wout }.finish

/-- Phase READBACK (R330, R331). -/
def Block.onReadback (b : Block) : Response → Option Block
  | .err c => some (b.raiseError .txnReadFailed c)
  | .data bs => some (b.onData b.onWordReadBack bs)
  | .idle | .busy | .ack | .ok => none

/-- `on Response(p)`: the transition of the current phase (R120). Where the transition places a next request it
replaces the answered one; every reaction that ends a run leaves REQ none. -/
def Block.onResponse (b : Block) (p : Response) : Option Block :=
  match b.phase with
  | .idle => none
  | .query => b.onQuery p
  | .cancel => b.onCancel p
  | .config => b.onConfig p
  | .read => b.onRead p
  | .write => b.onWrite p
  | .readback => b.onReadback p

end Sys2Proof.Machine
end

