-- ==== Sys2Proof/Machine/Dispatch.lean ====
section
/-! DEFINITION. Dispatch by the matched row (40_command.md R202): one arm for each command. -/

namespace Sys2Proof.Machine

def exec (i : Instr) (s : State) : Host.Outcome State Fault Refusal :=
  match i with
  | .nop => Sys2Proof.Machine.execNop s
  | .decode => Sys2Proof.Machine.execDecode s
  | .encodeCfg => Sys2Proof.Machine.execEncodeCfg s
  | .encodeWork => Sys2Proof.Machine.execEncodeWork s
  | .plan => Sys2Proof.Machine.execPlan s
  | .lookupPhy c => Sys2Proof.Machine.execLookupPhy c s
  | .lookupBoot c => Sys2Proof.Machine.execLookupBoot c s
  | .lookupSrc c => Sys2Proof.Machine.execLookupSrc c s
  | .lookupXosc c => Sys2Proof.Machine.execLookupXosc c s
  | .lookupPll c => Sys2Proof.Machine.execLookupPll c s
  | .lookupWait c => Sys2Proof.Machine.execLookupWait c s
  | .lookupSpeed c => Sys2Proof.Machine.execLookupSpeed c s
  | .update => Sys2Proof.Machine.execUpdate s

end Sys2Proof.Machine
end

