-- ==== Sys2Proof/Machine/HostPort.lean ====
section
/-! DEFINITION. The host port: the register map (10_state.md R35), HostRead and HostWrite (20_memory.md R111, R112),
and the operations of a host program with the pseudo-operations (30_encoding.md R175, R176). -/

namespace Sys2Proof.Machine

/-- The registers of the host register space (R35). -/
inductive Reg where
  | cmd | status | errcode | addr | target | div | raw | cfg0 | cfg1 | work0 | work1 | wout | rdbk | dmask | lkp
  | dold (f : FieldId)
  | dnew (f : FieldId)
  deriving DecidableEq, Repr

/-- The offset of a register (R35). -/
def Reg.offset : Reg → BitVec 8
  | .cmd => 0x00
  | .status => 0x04
  | .errcode => 0x08
  | .addr => 0x0C
  | .target => 0x10
  | .div => 0x14
  | .raw => 0x18
  | .cfg0 => 0x1C
  | .cfg1 => 0x20
  | .work0 => 0x24
  | .work1 => 0x28
  | .wout => 0x2C
  | .rdbk => 0x30
  | .dmask => 0x34
  | .lkp => 0x38
  | .dold f => BitVec.ofNat 8 (0x40 + 8 * (f.number - 1))
  | .dnew f => BitVec.ofNat 8 (0x44 + 8 * (f.number - 1))

/-- Every register of the map (R35). -/
def Reg.all : List Reg :=
  [.cmd, .status, .errcode, .addr, .target, .div, .raw, .cfg0, .cfg1, .work0, .work1, .wout, .rdbk, .dmask, .lkp,
    .dold .src, .dnew .src, .dold .boot, .dnew .boot, .dold .qspiQ, .dnew .qspiQ, .dold .speed, .dnew .speed,
    .dold .wait, .dnew .wait, .dold .mmcMode, .dnew .mmcMode, .dold .phy, .dnew .phy, .dold .xosc, .dnew .xosc,
    .dold .pll, .dnew .pll]

/-- The register at an offset, none where the offset is reserved (R35, R64). -/
def regAt (off : BitVec 8) : Option Reg := Reg.all.find? (fun r => r.offset == off)

/-- The value a host reads at a register (R38 to R63). -/
def Block.readReg (b : Block) : Reg → Word
  | .cmd => 0
  | .status => b.statusWord
  | .errcode => b.errCode
  | .addr => b.addr.setWidth 32
  | .target => b.target.setWidth 32
  | .div => b.div
  | .raw => b.raw
  | .cfg0 => view0 b.cfg
  | .cfg1 => view1 b.cfg
  | .work0 => view0 b.work
  | .work1 => view1 b.work
  | .wout => b.wout
  | .rdbk => b.rdbk
  | .dmask => b.dmask
  | .lkp => b.lkp
  | .dold f => b.dold.get f
  | .dnew f => b.dnew.get f

/-- The value of HostRead at an aligned offset: the register's, or 0 at a reserved offset (R111, R64). -/
def Block.hostValue (b : Block) (off : BitVec 8) : Word :=
  match regAt off with
  | some r => b.readReg r
  | none => 0

/-- A host write that is taken only while no run is in progress, and else dropped with OVR (R112). -/
def writeUnlessBusy (effect : Block → Block) (s : State) : Result :=
  if s.block.busy then .next { s with block := s.block.dropWrite }
  else .next { s with block := effect s.block }

/-- A host write to CMD: the word's command, or ILLEGAL_COMMAND (R200, R201, R204). The drop while BUSY is in the take
that both share (R408). -/
def writeCmd (c : Word) (s : State) : Result :=
  match decode c with
  | .ok i => exec i s
  | .error _ => takeIllegal s

/-- A taken ADDR write: a value above 0x7F is rejected with INVALID_ADDRESS (R50). -/
def Block.writeAddr (b : Block) (v : Word) : Block :=
  if v.toNat ≤ 0x7F then { b with addr := v.setWidth 7 } else b.raiseError .invalidAddress 0

/-- A taken TARGET write: a value other than 0, 2 and 3 is rejected with ILLEGAL_TARGET (R51). -/
def Block.writeTarget (b : Block) (v : Word) : Block :=
  if v = 0 ∨ v = 2 ∨ v = 3 then { b with target := v.setWidth 3 } else b.raiseError .illegalTarget 0

/-- HostWrite of `v` to a register; a read-only register ignores it (R112, R64). -/
def writeReg (r : Reg) (v : Word) (s : State) : Result :=
  match r with
  | .cmd => writeCmd v s
  | .addr => writeUnlessBusy (fun b => b.writeAddr v) s
  | .target => writeUnlessBusy (fun b => b.writeTarget v) s
  | .div => writeUnlessBusy (fun b => { b with div := v }) s
  | .raw => writeUnlessBusy (fun b => { b with raw := v }) s
  | .cfg0 => writeUnlessBusy (fun b => { b with cfg := writeView0 b.cfg v }) s
  | .cfg1 => writeUnlessBusy (fun b => { b with cfg := writeView1 b.cfg v }) s
  | .status | .errcode | .work0 | .work1 | .wout | .rdbk | .dmask | .lkp => .next s
  | .dold _ | .dnew _ => .next s

/-- HostWrite(off, v); a write to a reserved offset has no effect (R112, R64). -/
def hostWrite (off : BitVec 8) (v : Word) (s : State) : Result :=
  match regAt off with
  | some r => writeReg r v s
  | none => .next s

/-- HostRead(off): the value goes to the host and the block keeps its state (R110, R111). -/
def hostRead (off : BitVec 8) (s : State) : Result :=
  .next { s with host := { s.host with data := s.block.hostValue off } }

/-- A host access has a meaning only at an offset that is a multiple of 4 and at a width of 32 bits; any other is
refused, a step the model does not give (R107). -/
def aligned32 (off : BitVec 8) (width : Nat) (access : State → Result) (s : State) : Result :=
  if off.toNat % 4 ≠ 0 then .refused .misalignedAccess
  else if width ≠ 32 then .refused .accessWidth
  else access s

/-- One operation of the host program, in a state where it has been taken off the program. WAITIDLE reads STATUS and,
while bit 0 reads 1, stays the next operation (R176). -/
def hostOp (op : HostOp) (s : State) : Result :=
  match op with
  | .write off width v => aligned32 off width (hostWrite off v) s
  | .read off width => aligned32 off width (hostRead off) s
  | .waitIdle =>
    hostRead Reg.status.offset
      (if s.block.statusWord.getLsbD 0 then { s with host := { s.host with program := .waitIdle :: s.host.program } }
       else s)

/-- The host's move: the next operation of its program, or nothing when none is left (R109, R464). -/
def hostTurn (s : State) : Result :=
  match s.host.program with
  | [] => .next s
  | op :: ops => hostOp op { s with host := { s.host with program := ops } }

/-! Host programs as the spec writes them. -/

/-- `WR <REG>, v` (R175). -/
def wr (r : Reg) (v : Word) : HostOp := .write r.offset 32 v

/-- `RD <REG>` (R175). -/
def rd (r : Reg) : HostOp := .read r.offset 32

/-- A command mnemonic alone on a line: `WR CMD` of its word (R175). -/
def cmd (i : Instr) : HostOp := wr .cmd (encode i)

/-- `SETADDR a` (R176). -/
def setAddr (a : Word) : List HostOp := [wr .addr a]

/-- `SETTARGET t` (R176). -/
def setTarget (t : Word) : List HostOp := [wr .target t]

/-- `SETDIV d` (R176). -/
def setDiv (d : Word) : List HostOp := [wr .div d]

/-- `INSPECT w` (R176). -/
def inspect (w : Word) : List HostOp := [wr .raw w, cmd .decode]

end Sys2Proof.Machine
end

