-- ==== Sys2Proof/Machine/Environment.lean ====
section
/-! DEFINITION. The transport agent and the reset event: responses to the outstanding request (20_memory.md R119 to
R122), their effect on the EEPROM and the bus (R114, R115, R123), the environment of R124, late responses (R121) and
reset (70_reset_and_hazards.md R450, R452). -/

namespace Sys2Proof.Machine

/-- The `n` bytes of a slave from offset `off` take free values: "the EEPROM's 4 bytes afterwards may hold any values"
(R114, R452). -/
def Transport.scramble (t : Transport) (addr : SlaveAddr) (off : BitVec 8) (n : Nat) : Transport :=
  { t with
    eeprom := eepromWriteBytes t.eeprom addr off
      ((List.range n).map (fun i => Config.freeByte (t.draws + i)))
    draws := t.draws + n }

/-- What a response tells of the world behind the port: a Write answered Ok stores its bytes (R123) and one answered
with an error leaves them unknown (R114), a Cancel leaves the bus Idle and a Query's answer is the bus state (R124);
a Read changes nothing (R115). -/
def Transport.settle (t : Transport) (r : Request) (p : Response) : Transport :=
  match r with
  | .query => match p with
    | .idle => { t with bus := .idle }
    | .busy => { t with bus := .busy }
    | .ack | .ok | .data _ | .err _ => t
  | .cancel => match p with
    | .ack => { t with bus := .idle }
    | .idle | .busy | .ok | .data _ | .err _ => t
  | .configure _ => t
  | .read _ _ _ => t
  | .write addr off bytes => match p with
    | .ok => { t with eeprom := eepromWriteBytes t.eeprom addr off bytes }
    | .err _ => t.scramble addr off bytes.length
    | .idle | .busy | .ack | .data _ => t

/-- The response of the environment of R124: Query answers the bus state, Cancel Ack, Configure Ok, and a Read or
Write at EEPROM_ADDR succeeds; at any other address the answer is an error whose code is a draw. -/
def Transport.reply (t : Transport) (r : Request) : Response :=
  match r with
  | .query => match t.bus with
    | .idle => .idle
    | .busy => .busy
  | .cancel => .ack
  | .configure _ => .ok
  | .read addr off len =>
    if addr = Config.eepromAddr then .data (eepromReadBytes t.eeprom addr off len.toNat)
    else .err (Config.freeCode t.draws)
  | .write addr _ _ => if addr = Config.eepromAddr then .ok else .err (Config.freeCode t.draws)

/-- A response to the outstanding request: refused when none is outstanding or the request does not admit it (R121),
else the block's transition (R120) and what the response tells of the EEPROM and the bus. -/
def answer (p : Response) (s : State) : Result :=
  match s.block.req with
  | none => .refused .noOutstandingRequest
  | some r =>
    if r.admits p then
      match s.block.onResponse p with
      | some b => .next { s with block := b, transport := s.transport.settle r p }
      | none => .fault .phaseRequestMismatch
    else .refused .responseNotAdmitted

/-- The environment of R124 answers the outstanding request; the draw it may have made is spent. -/
def environmentAnswer (s : State) : Result :=
  match s.block.req with
  | none => .refused .noOutstandingRequest
  | some r =>
    answer (s.transport.reply r) { s with transport := { s.transport with draws := s.transport.draws + 1 } }

/-- A response to the `i`-th request that resets abandoned is discarded with no effect on any state (R121, R452); only
that request leaves the list, since the transport does not answer it again. -/
def lateAnswer (i : Nat) (p : Response) (s : State) : Result :=
  match s.transport.abandoned[i]? with
  | none => .refused .noAbandonedRequest
  | some r =>
    if r.admits p then
      .next { s with transport := { s.transport with abandoned := s.transport.abandoned.eraseIdx i } }
    else .refused .responseNotAdmitted

/-- What a reset does to the transport: the outstanding request is abandoned, and if it was a Write the bytes it was
writing may hold any values (R452). -/
def Transport.abandon (t : Transport) : Option Request → Transport
  | none => t
  | some r =>
    match r with
    | .write addr off bytes => { t.scramble addr off bytes.length with abandoned := t.abandoned ++ [r] }
    | .query | .cancel | .configure _ | .read _ _ _ => { t with abandoned := t.abandoned ++ [r] }

/-- The reset event: the block takes its reset values at once (R450) and abandons its outstanding request (R452). -/
def resetEvent (s : State) : State :=
  { s with block := .reset, transport := s.transport.abandon s.block.req }

/-- Bytes of the EEPROM change by other means than an acknowledged Write of the block (R128, R452). -/
def eepromChange (addr : SlaveAddr) (off : BitVec 8) (bytes : List Byte) (s : State) : State :=
  { s with transport :=
      { s.transport with eeprom := eepromWriteBytes s.transport.eeprom addr off bytes } }

/-- One entry of the total order, in a state where it has been taken off the order. -/
def takeTurn (t : Turn) (s : State) : Result :=
  match t with
  | .host => hostTurn s
  | .answer p => answer p s
  | .environment => environmentAnswer s
  | .lateAnswer i p => lateAnswer i p s
  | .reset => .next (resetEvent s)
  | .eepromChange addr off bytes => .next (eepromChange addr off bytes s)

end Sys2Proof.Machine
end

