-- ==== Sys2Proof/Machine/Step.lean ====
section
/-! DEFINITION. One step: the next entry of the total order of host accesses, transport responses and resets
(20_memory.md R125). -/

namespace Sys2Proof.Machine

/-- One step of the model. With no entry left nothing moves: the block waits, in IDLE or for a response that never
comes (R335, R416). -/
def step (s : State) : Host.Outcome State Fault Refusal :=
  match s.turns with
  | [] => .next s
  | t :: ts => takeTurn t { s with turns := ts }

/-- `s` with the host's write of a command word to CMD as the next operation of its program and the host as the next
agent to move. The block fetches nothing (R103): a command runs when its CMD write is taken. -/
def State.withFetchWord (s : State) (nbits w : Nat) : State :=
  { s with
    host := { s.host with program := wr .cmd (tableWord nbits w) :: s.host.program }
    turns := .host :: s.turns }

end Sys2Proof.Machine
end

