-- ==== Sys2Proof/Safety.lean ====
section
/-! DEFINITION. The terms claims are stated in: the invariant that the spec's derived rules give the block (10_state.md
R32, R36, R37, R40 to R43, R47, R61, R62; 44_update_fsm.md R333), runs of several turns, and the requests a run
places. -/

namespace Sys2Proof.Machine

/-- The table of R65, written out row by row, with CFG and WORK at decode(0x00000000). -/
def Block.resetTable : Block :=
  { phase := .idle, req := none, done := false, err := false, changed := false, wrote := false, vmismatch := false
    ovr := false, errClass := .none, nread := 0, nwrite := 0, errCode := 0, addr := 0x50, target := 2
    div := Config.divReset, raw := 0, cfg := ⟨0, 0, 0, 0, 0, .qspi 0⟩, work := ⟨0, 0, 0, 0, 0, .qspi 0⟩, wout := 0
    rdbk := 0, dmask := 0, lkp := 0, dold := ⟨0, 0, 0, 0, 0, 0, 0, 0, 0⟩, dnew := ⟨0, 0, 0, 0, 0, 0, 0, 0, 0⟩ }

/-- The one request that is outstanding in each phase: "REQ is none when PHASE is IDLE and is exactly one request in
every other phase", of the kind the phase names (R37), always at offset 0 and of 4 bytes (R108). -/
def Block.expectedRequest (b : Block) : Option Request :=
  match b.phase with
  | .idle => none
  | .query => some .query
  | .cancel => some .cancel
  | .config => some (.configure b.div)
  | .read => some b.readRequest
  | .write => some (b.writeRequest b.wout)
  | .readback => some b.readRequest

/-- How far the current or last run got: NREAD, NWRITE and WROTE as each phase leaves them (R44, R47). -/
def Block.progress (b : Block) : BitVec 2 × BitVec 1 × Bool := (b.nread, b.nwrite, b.wrote)

/-- The values NREAD, NWRITE and WROTE can have in each phase: at most two reads and one write, WROTE only after the
write was acknowledged (R44, R47, R333). -/
def Block.progressLegal (b : Block) : Bool :=
  match b.phase with
  | .idle => b.progress ∈ [(0, 0, false), (1, 0, false), (1, 1, false), (2, 1, true)]
  | .query | .cancel | .config => b.progress = (0, 0, false)
  | .read => b.progress = (1, 0, false)
  | .write => b.progress = (1, 1, false)
  | .readback => b.progress = (2, 1, true)

/-- A delta register holds `enc` of a field: 0, or PRESENT in bit 31 over a value in bits 23:0 (R62). -/
def deltaRegLegal (w : Word) : Bool := w = 0 || (w &&& 0xFF000000) = 0x80000000

/-- What holds of the block in every state a run reaches. -/
structure BlockInv (b : Block) : Prop where
  /-- CFG is well-formed at every step (R32) -/
  cfg_wf : b.cfg.wf = true
  /-- WORK is well-formed at every step (R32) -/
  work_wf : b.work.wf = true
  /-- TARGET holds 0, 2 or 3 (R51, R296) -/
  target_legal : b.target = 0 ∨ b.target = 2 ∨ b.target = 3
  /-- PHASE names the outstanding request (R37) -/
  req_matches : b.req = b.expectedRequest
  /-- DONE and ERR are never both 1 (R41) -/
  not_done_and_err : ¬(b.done = true ∧ b.err = true)
  /-- while a run is in progress neither is 1 (R201, R332, R403) -/
  busy_clears : b.busy = true → b.done = false ∧ b.err = false
  /-- ERRCLASS is 0 exactly when ERR is 0 (R42) -/
  errClass_none : b.errClass = .none ↔ b.err = false
  /-- without an error ERRCODE is 0 (R48) -/
  errCode_zero : b.err = false → b.errCode = 0
  /-- CHANGED is the `changed` flag of DMASK (R43, R294) -/
  changed_dmask : b.changed = (b.dmask != 0)
  /-- DMASK is that of the delta registers, or was cleared by an UPDATE take (R61, R293, R320) -/
  dmask_delta : b.dmask = 0 ∨ b.dmask = deltaMask b.dold b.dnew
  /-- bit 0 and bits 31:10 of DMASK read 0 (R61), and PHY, XOSC and PLL never differ (R299) -/
  dmask_bits : b.dmask &&& 0xFFFFFF81 = 0
  /-- each delta register holds the encoding of a field (R62) -/
  dold_legal : ∀ f, deltaRegLegal (b.dold.get f) = true
  /-- each delta register holds the encoding of a field (R62) -/
  dnew_legal : ∀ f, deltaRegLegal (b.dnew.get f) = true
  /-- bits 15:9 and 31:24 of LKP read 0 (R63) -/
  lkp_bits : b.lkp &&& 0xFF00FE00 = 0
  /-- NREAD, NWRITE and WROTE are as the phase says (R47) -/
  progress_legal : b.progressLegal = true
  /-- VMISMATCH is 1 only after a read-back (R45) -/
  vmismatch_after : b.vmismatch = true → b.phase = .idle ∧ b.wrote = true
  /-- from the Write to the read-back WOUT is the planned word and the delta is non-empty (R327) -/
  write_planned : b.phase = .write ∨ b.phase = .readback → b.wout = encodeRcw b.work ∧ b.changed = true

/-- The invariant of the model: the block's, and the canonical form of the recorded EEPROM bytes. -/
structure Inv (s : State) : Prop where
  block : BlockInv s.block
  eeprom : Memory.wf s.transport.eeprom = true

/-- Only the block may differ: the host, the transport and the order of turns are the same, and every byte of the
EEPROM space reads as before. -/
structure OnlyBlock (s t : State) : Prop where
  host : t.host = s.host
  transport : t.transport = s.transport
  turns : t.turns = s.turns
  bytes : ∀ a, eepromRead t.transport.eeprom a = eepromRead s.transport.eeprom a

/-- Several turns in a row, from a state whose own order of turns is not consulted. -/
def runTurns : List Turn → State → Result
  | [], s => .next s
  | t :: ts, s =>
    match takeTurn t s with
    | .next u => runTurns ts u
    | .fault r => .fault r
    | .refused r => .refused r

/-- The kinds of request (R117). -/
inductive RequestKind where
  | query | cancel | configure | read | write
  deriving DecidableEq, Repr

/-- The kind of a request. -/
def Request.kind : Request → RequestKind
  | .query => .query
  | .cancel => .cancel
  | .configure _ => .configure
  | .read _ _ _ => .read
  | .write _ _ _ => .write

/-- The requests that become outstanding while the transport gives a list of answers, the one outstanding at the start
first. -/
def requestsPlaced : List Response → State → List Request
  | [], s => s.block.req.toList
  | p :: ps, s =>
    s.block.req.toList ++
      match answer p s with
      | .next t => requestsPlaced ps t
      | _ => []

/-- The whole sequences of R334, `Query, [Cancel], Configure, Read, [Write, Read]` with and without the Cancel. Every
other sequence of R334 is a prefix of one of them. -/
def wholeSequences : List (List RequestKind) :=
  [[.query, .configure, .read, .write, .read], [.query, .cancel, .configure, .read, .write, .read]]

/-- A register that two runs treat alike: both wrote the same value, or neither wrote it (R66). -/
def treatedAlike {α : Type} (before₁ before₂ after₁ after₂ : α) : Prop :=
  after₁ = after₂ ∨ (after₁ = before₁ ∧ after₂ = before₂)

end Sys2Proof.Machine
end

