-- ==== Sys2Proof/Certificates/Slice0/Obligations.lean ====
section
/-! DEFINITION. The statements for the provers, from the numbered rules of spec/. A statement about every state that
could fail only in states no run reaches has the invariant of Safety, or the part of it that it needs, as a premise. -/

open Sys2Proof Sys2Proof.Machine

/-! Reset. -/

/-- R65: the table of reset values, with DIV at the parameter DIV_RESET; STATUS then reads 0. -/
def Obligations.ResetBlockHoldsTheTableValues : Prop :=
  State.reset.block = Block.resetTable ∧ Block.resetTable.statusWord = 0 ∧ Block.resetTable.cfg = decodeRcw 0 ∧
    Block.resetTable.work = decodeRcw 0

/-- R450: a reset at any step sets the whole block to its reset values at once; the host's program and the turns to come
stay, and every EEPROM byte stays but those an abandoned Write was storing to (R452). R30 counts the host, the order of
turns, the bus and the EEPROM as no state of the block; that they are fields of State that a reset leaves is the model's
choice (log entry 20, and log entry 8 for the bus). -/
def Obligations.ResetEventRestoresTheBlock : Prop :=
  ∀ (s : State) (ts : List Turn), ∃ t, step { s with turns := .reset :: ts } = .next t ∧
    t.block = Block.resetTable ∧ t.block.statusWord = 0 ∧ t.host = s.host ∧ t.turns = ts ∧
    t.transport.bus = s.transport.bus ∧
    ∀ a, (∀ addr off bytes, s.block.req = some (.write addr off bytes) → a ∉ eepromKeys addr off bytes.length) →
      eepromRead t.transport.eeprom a = eepromRead s.transport.eeprom a

/-- R452, R121: a reset abandons the outstanding request, and a response given afterwards for any abandoned request, in
whatever order they come, is discarded: only the list of abandoned requests changes, which loses the one answered. That
list, and that a late response says by its position which request it answers, are the model's own (log entry 12). -/
def Obligations.AbandonedRequestsAnswerIsDiscarded : Prop :=
  (∀ (s : State) (r : Request) (ts : List Turn), s.block.req = some r →
    ∃ t, step { s with turns := .reset :: ts } = .next t ∧ t.block.req = none ∧ t.turns = ts ∧
      t.transport.abandoned = s.transport.abandoned ++ [r]) ∧
  ∀ (s : State) (before after : List Request) (r : Request) (p : Response) (ts : List Turn),
    s.transport.abandoned = before ++ r :: after → r.admits p = true →
    step { s with turns := .lateAnswer before.length p :: ts } =
      .next { s with turns := ts, transport := { s.transport with abandoned := before ++ after } }

/-- The reset state meets the invariant. The model's choices of log entries 4, 5 and 8 enter only through the empty
EEPROM list. -/
def Obligations.ResetStateMeetsTheInvariant : Prop := Inv State.reset

/-! Invariants of every step. -/

/-- The invariant of Safety is kept by every step, whatever agent moves. Its EEPROM part is about the model's own form of
the recorded bytes (log entry 5). -/
def Obligations.StepKeepsTheInvariant : Prop :=
  ∀ s t : State, Inv s → step s = .next t → Inv t

/-- Under the invariant no step ends in a fault: the only fault of the model cannot occur in a run. -/
def Obligations.InvariantStatesNeverFault : Prop :=
  ∀ (s : State) (r : Fault), Inv s → step s ≠ .fault r

/-- R36: PHASE leaves IDLE only when an UPDATE command is taken, that is in a host turn whose operation writes the
UPDATE word to CMD; a pure command never changes PHASE. -/
def Obligations.OnlyUpdateLeavesIdle : Prop :=
  ∀ s t : State, s.block.phase = .idle → s.block.req = none → step s = .next t → t.block.phase ≠ .idle →
    t.block.phase = .query ∧ ∃ ts ops, s.turns = .host :: ts ∧ s.host.program = .write 0x00 32 0x00000005 :: ops

/-- R335: while a run is in progress only a response or a reset moves it: any other turn leaves the whole block as it
is, but that a host write to CMD or to an RW register, which is dropped, sets OVR. -/
def Obligations.OnlyResponseOrResetMovesARun : Prop :=
  ∀ s t : State, s.block.busy = true → step s = .next t →
    (∀ p ts, s.turns ≠ .answer p :: ts) → (∀ ts, s.turns ≠ .environment :: ts) → (∀ ts, s.turns ≠ .reset :: ts) →
    t.block = s.block ∨
      (t.block = { s.block with ovr := true } ∧ ∃ ts off v ops, s.turns = .host :: ts ∧
        s.host.program = .write off 32 v :: ops ∧
        off ∈ ([0x00, 0x0C, 0x10, 0x14, 0x18, 0x1C, 0x20] : List (BitVec 8)))

/-- R406: an error record stays through every step, whatever agent moves, that is neither a reset nor a write to CMD,
unless a rejected ADDR or TARGET write overwrites it. While a run is in progress ERR is 0 (R201, and `busy_clears` of the
invariant). -/
def Obligations.ErrorRecordStaysUntilTakeOrReset : Prop :=
  ∀ s t : State, s.block.busy = false → s.block.err = true → (∀ ts, s.turns ≠ .reset :: ts) →
    (∀ ts v ops, ¬(s.turns = .host :: ts ∧ s.host.program = .write 0x00 32 v :: ops)) → step s = .next t →
    t.block.err = true ∧ ((t.block.errClass = s.block.errClass ∧ t.block.errCode = s.block.errCode) ∨
      (∃ ts v ops, s.turns = .host :: ts ∧ s.host.program = .write 0x0C 32 v :: ops ∧ 0x7F < v ∧
        t.block.errClass = .invalidAddress ∧ t.block.errCode = 0) ∨
      (∃ ts v ops, s.turns = .host :: ts ∧ s.host.program = .write 0x10 32 v :: ops ∧ ¬(v = 0 ∨ v = 2 ∨ v = 3) ∧
        t.block.errClass = .illegalTarget ∧ t.block.errCode = 0))

/-! Commands: encoding, decoding and the step. -/

/-- A host turn whose operation is a 32-bit write at any aligned offset performs that HostWrite, in the state where the
turn and the operation have been taken off; and where it writes a word of a command to CMD, it runs that command. That the
order of moves is a list of turns is the model's form (log entry 4). -/
def Obligations.StepRunsTheDecodedCommand : Prop :=
  (∀ (s : State) (off : BitVec 8) (v : Word) (ops : List HostOp) (ts : List Turn), off.toNat % 4 = 0 →
    step { s with turns := .host :: ts, host := { s.host with program := .write off 32 v :: ops } } =
      hostWrite off v { s with turns := ts, host := { s.host with program := ops } }) ∧
  ∀ (s : State) (i : Instr) (w : Word) (ops : List HostOp) (ts : List Turn), decode w = .ok i →
    step { s with turns := .host :: ts, host := { s.host with program := .write 0x00 32 w :: ops } } =
      exec i { s with turns := ts, host := { s.host with program := ops } }

/-- A few command words of R171 decode to their commands. -/
def Obligations.SampleCommandWordsDecode : Prop :=
  decode 0x00000000 = .ok .nop ∧ decode 0x00000001 = .ok .decode ∧ decode 0x00000012 = .ok .encodeWork ∧
  decode 0x00000003 = .ok .plan ∧ decode 0x00000304 = .ok (.lookupPhy 3) ∧ decode 0x00000754 = .ok (.lookupWait 7) ∧
  decode 0x00000164 = .ok (.lookupSpeed 1) ∧ decode 0x00000005 = .ok .update

/-- R170, R171: a word decodes to the command of the row it matches, at most one row matches any word, a word that
matches none is illegal, and the rows are the thirteen of the table. -/
def Obligations.DecodingFollowsTheOpcodeMap : Prop :=
  (∀ (w : Word) (i : Instr), decode w = .ok i ↔
    ∃ r ∈ opcodeRows, w &&& r.mask = r.pattern ∧ i = r.build (w.extractLsb' 8 4)) ∧
  (∀ (w : Word) (m n : Fin opcodeRows.length), w &&& (opcodeRows.get m).mask = (opcodeRows.get m).pattern →
    w &&& (opcodeRows.get n).mask = (opcodeRows.get n).pattern → m = n) ∧
  (∀ w : Word, (∃ e, decode w = .error e) ↔ ∀ r ∈ opcodeRows, w &&& r.mask ≠ r.pattern) ∧
  ∀ c : BitVec 4, opcodeRows.map (fun r => (r.build c, r.pattern, r.mask)) = [
    (.nop, 0x00000000, 0xFFFFFFFF), (.decode, 0x00000001, 0xFFFFFFFF), (.encodeCfg, 0x00000002, 0xFFFFFFFF),
    (.encodeWork, 0x00000012, 0xFFFFFFFF), (.plan, 0x00000003, 0xFFFFFFFF), (.lookupPhy c, 0x00000004, 0xFFFFFCFF),
    (.lookupBoot c, 0x00000014, 0xFFFFF8FF), (.lookupSrc c, 0x00000024, 0xFFFFFEFF),
    (.lookupXosc c, 0x00000034, 0xFFFFFEFF), (.lookupPll c, 0x00000044, 0xFFFFFEFF),
    (.lookupWait c, 0x00000054, 0xFFFFF8FF), (.lookupSpeed c, 0x00000064, 0xFFFFFEFF),
    (.update, 0x00000005, 0xFFFFFFFF)]

/-- R168, R170, R173: a word decodes to a command exactly when the command is well-formed and the word is its encoding.
So decoding the encoding of a well-formed command gives it back, with CODE at every value it admits, and no bit of a
command word is ignored. -/
def Obligations.DecodeAndEncodeAgree : Prop :=
  ∀ (w : Word) (i : Instr), decode w = .ok i ↔ i.wf = true ∧ encode i = w

/-- R172: the words of its list are exactly those that decode to no command, and the take of one raises ILLEGAL_COMMAND
with code 0 after the clearing, with no other effect. -/
def Obligations.IllegalWordsAreThoseOfTheRule : Prop :=
  (∀ w : Word, (∃ e, decode w = .error e) ↔
    (w.extractLsb' 12 20 ≠ 0 ∨ 6 ≤ w.extractLsb' 0 4 ∨
      (w.extractLsb' 0 4 ∈ [0, 1, 3, 5] ∧ w.extractLsb' 4 4 ≠ 0) ∨
      (w.extractLsb' 0 4 = 2 ∧ 2 ≤ w.extractLsb' 4 4) ∨ (w.extractLsb' 0 4 = 4 ∧ 7 ≤ w.extractLsb' 4 4) ∨
      (w.extractLsb' 0 4 ≠ 4 ∧ w.extractLsb' 8 4 ≠ 0) ∨
      (w.extractLsb' 0 4 = 4 ∧ w.extractLsb' 4 4 = 0 ∧ 4 ≤ w.extractLsb' 8 4) ∨
      (w.extractLsb' 0 4 = 4 ∧ w.extractLsb' 4 4 ∈ [1, 5] ∧ 8 ≤ w.extractLsb' 8 4) ∨
      (w.extractLsb' 0 4 = 4 ∧ w.extractLsb' 4 4 ∈ [2, 3, 4, 6] ∧ 2 ≤ w.extractLsb' 8 4))) ∧
  ∀ (s : State) (w : Word) (e : Illegal), s.block.phase = .idle → decode w = .error e →
    ∃ t, hostWrite 0x00 w s = .next t ∧ OnlyBlock s t ∧
      t.block = { s.block with
        done := false, ovr := false, err := true, errClass := .illegalCommand, errCode := 0 }

/-- R200: while BUSY every command is dropped: only OVR is set. -/
def Obligations.CommandIsDroppedWhileBusy : Prop :=
  ∀ (i : Instr) (s : State), s.block.busy = true →
    ∃ t, exec i s = .next t ∧ OnlyBlock s t ∧ t.block = { s.block with ovr := true }

/-! The commands, each taken while no run is in progress. -/

/-- R205: NOP clears DONE, ERR, ERRCLASS, OVR and ERRCODE and then sets DONE, with no other effect. -/
def Obligations.NopClearsErrorsAndSetsDone : Prop :=
  Sys2Proof.decode 0x00000000 = .ok .nop ∧ ∀ s : State, s.block.phase = .idle → ∃ t, exec .nop s = .next t ∧ OnlyBlock s t ∧
    t.block = { s.block with done := true, err := false, errClass := .none, ovr := false, errCode := 0 }

/-- R233: DECODE writes CFG with the decoded RAW, and nothing else but the take's flags. -/
def Obligations.DecodeCommandWritesCfgFromRaw : Prop :=
  Sys2Proof.decode 0x00000001 = .ok .decode ∧ ∀ s : State, s.block.phase = .idle → ∃ t, exec .decode s = .next t ∧ OnlyBlock s t ∧
    t.block = { s.block with
      cfg := decodeRcw s.block.raw
      done := true, err := false, errClass := .none, ovr := false, errCode := 0 }

/-- R234: ENCODE.CFG writes WOUT with the encoded CFG, and nothing else but the take's flags. -/
def Obligations.EncodeCfgWritesWout : Prop :=
  Sys2Proof.decode 0x00000002 = .ok .encodeCfg ∧ ∀ s : State, s.block.phase = .idle → ∃ t, exec .encodeCfg s = .next t ∧ OnlyBlock s t ∧
    t.block = { s.block with
      wout := encodeRcw s.block.cfg
      done := true, err := false, errClass := .none, ovr := false, errCode := 0 }

/-- R235: ENCODE.WORK writes WOUT with the encoded WORK, and nothing else but the take's flags. -/
def Obligations.EncodeWorkWritesWout : Prop :=
  Sys2Proof.decode 0x00000012 = .ok .encodeWork ∧ ∀ s : State, s.block.phase = .idle → ∃ t, exec .encodeWork s = .next t ∧ OnlyBlock s t ∧
    t.block = { s.block with
      wout := encodeRcw s.block.work
      done := true, err := false, errClass := .none, ovr := false, errCode := 0 }

/-- R296, R293: PLAN writes WORK with the plan of CFG for TARGET, all nine pairs of delta registers and DMASK with the
delta of CFG and WORK, and CHANGED with whether it is non-empty; nothing else but the take's flags. -/
def Obligations.PlanCommandWritesWorkAndDelta : Prop :=
  Sys2Proof.decode 0x00000003 = .ok .plan ∧ ∀ s : State, s.block.phase = .idle → ∃ t, exec .plan s = .next t ∧ OnlyBlock s t ∧
    t.block = { s.block with
      work := plan s.block.cfg s.block.target
      dold := t.block.dold, dnew := t.block.dnew, dmask := t.block.dmask, changed := t.block.dmask != 0
      done := true, err := false, errClass := .none, ovr := false, errCode := 0 } ∧
    (∀ f, t.block.dold.get f = encField (fieldVal s.block.cfg f)) ∧
    (∀ f, t.block.dnew.get f = encField (fieldVal (plan s.block.cfg s.block.target) f)) ∧
    (∀ f, t.block.dmask.getLsbD f.number = (t.block.dold.get f != t.block.dnew.get f)) ∧
    t.block.dmask &&& 0xFFFFFC01 = 0

/-- R262, R263, R270 to R276: every LOOKUP command writes LKP with TABLE, CODE, KNOWN and MS, and nothing else but the
take's flags. KNOWN is 1 for the codes R261 gives a label; MS is the duration of a known WAIT code and else 0. The
statement is of exec on every term; no word decodes to a term whose CODE is too wide for its table (R172), and what exec
does on one is the model's choice (log entry 21). -/
def Obligations.LookupWritesTheTableEntry : Prop :=
  ∀ (s : State) (c table : BitVec 4) (i : Instr) (labelled : List (BitVec 4)),
    (i, table, labelled) ∈ [(.lookupPhy c, 0, [0, 1, 2, 3]), (.lookupBoot c, 1, [0, 2, 3]), (.lookupSrc c, 2, [0, 1]),
      (.lookupXosc c, 3, [0, 1]), (.lookupPll c, 4, [0, 1]), (.lookupWait c, 5, [0, 1, 2, 3, 4, 7]),
      (Instr.lookupSpeed c, (6 : BitVec 4), ([0, 1] : List (BitVec 4)))] →
    s.block.phase = .idle → ∃ t, exec i s = .next t ∧ OnlyBlock s t ∧
      t.block = { s.block with
        lkp := t.block.lkp, done := true, err := false, errClass := .none, ovr := false, errCode := 0 } ∧
      t.block.lkp.extractLsb' 0 4 = table ∧ t.block.lkp.extractLsb' 4 4 = c ∧
      (t.block.lkp.getLsbD 8 = true ↔ c ∈ labelled) ∧
      (table ≠ 5 ∨ c ∉ labelled → t.block.lkp.extractLsb' 16 8 = 0) ∧
      (∀ ms : BitVec 8, table = 5 →
        (c, ms) ∈ ([(0, 0), (1, 5), (2, 10), (3, 20), (4, 35), (7, 50)] : List (BitVec 4 × BitVec 8)) →
        t.block.lkp.extractLsb' 16 8 = ms) ∧
      t.block.lkp.extractLsb' 9 7 = 0 ∧ t.block.lkp.extractLsb' 24 8 = 0

/-- R320: the take of UPDATE clears the run's flags, counters and DMASK, makes the phase QUERY and places the Query; no
data register changes. -/
def Obligations.UpdateTakeStartsTheRun : Prop :=
  ∀ s : State, s.block.phase = .idle → ∃ t, exec .update s = .next t ∧ OnlyBlock s t ∧
    t.block = { s.block with
      done := false, err := false, errClass := .none, ovr := false, errCode := 0
      changed := false, wrote := false, vmismatch := false, nread := 0, nwrite := 0, dmask := 0
      phase := .query, req := some .query } ∧
    t.block.busy = true

/-! The host port. -/

/-- R50: an ADDR write stores a value up to 0x7F and raises INVALID_ADDRESS with code 0 for any other, leaving ADDR; it
places no request. -/
def Obligations.AddrWriteIsValidated : Prop :=
  State.reset.block.addr = 0x50 ∧ (∀ b : Block, b.hostValue 0x0C = b.addr.setWidth 32) ∧
  ∀ (s : State) (v : Word), s.block.phase = .idle → ∃ t, hostWrite 0x0C v s = .next t ∧ OnlyBlock s t ∧
    t.block.req = s.block.req ∧
    (v ≤ 0x7F → t.block = { s.block with addr := v.setWidth 7 } ∧ t.block.hostValue 0x0C = v) ∧
    (0x7F < v → t.block = { s.block with
      err := true, errClass := .invalidAddress, errCode := 0, done := false })

/-- R51: a TARGET write stores 0, 2 or 3 and raises ILLEGAL_TARGET with code 0 for any other value, leaving TARGET. -/
def Obligations.TargetWriteIsValidated : Prop :=
  State.reset.block.target = 2 ∧ (∀ b : Block, b.hostValue 0x10 = b.target.setWidth 32) ∧
  ∀ (s : State) (v : Word), s.block.phase = .idle → ∃ t, hostWrite 0x10 v s = .next t ∧ OnlyBlock s t ∧
    ((v = 0 ∨ v = 2 ∨ v = 3) → t.block = { s.block with target := v.setWidth 3 } ∧ t.block.hostValue 0x10 = v) ∧
    (¬(v = 0 ∨ v = 2 ∨ v = 3) → t.block = { s.block with
      err := true, errClass := .illegalTarget, errCode := 0, done := false })

/-- R52, R53: DIV and RAW accept every 32-bit value and read it back; nothing else changes. -/
def Obligations.DivAndRawWritesStoreEveryValue : Prop :=
  ∀ (s : State) (v : Word), s.block.phase = .idle →
    (∃ t, hostWrite 0x14 v s = .next t ∧ OnlyBlock s t ∧ t.block = { s.block with div := v } ∧
      t.block.hostValue 0x14 = v) ∧
    (∃ t, hostWrite 0x18 v s = .next t ∧ OnlyBlock s t ∧ t.block = { s.block with raw := v } ∧
      t.block.hostValue 0x18 = v)

/-- R56: a CFG0 write sets the common fields, and resets the payload exactly when the variant changes. CFG is read back
through CFG0 with the tag of the new variant, whatever bits 31:8 were written. -/
def Obligations.Cfg0WriteSetsCommonFields : Prop :=
  ∀ (s : State) (d : Word), s.block.phase = .idle → ∃ t, hostWrite 0x1C d s = .next t ∧ OnlyBlock s t ∧
    t.block = { s.block with cfg := t.block.cfg } ∧
    t.block.cfg.phy = d.extractLsb' 0 2 ∧ t.block.cfg.boot = d.extractLsb' 2 3 ∧
    t.block.cfg.src = d.extractLsb' 5 1 ∧ t.block.cfg.xosc = d.extractLsb' 6 1 ∧
    t.block.cfg.pll = d.extractLsb' 7 1 ∧
    (variantOf (d.extractLsb' 2 3) = variantOf s.block.cfg.boot → t.block.cfg.pay = s.block.cfg.pay) ∧
    (variantOf (d.extractLsb' 2 3) ≠ variantOf s.block.cfg.boot →
      t.block.cfg.pay = zeroPayload (variantOf (d.extractLsb' 2 3))) ∧
    t.block.hostValue 0x1C =
      ((d &&& 0xFF) ||| (variantOf (d.extractLsb' 2 3)).tag.setWidth 32 <<< 8)

/-- R57: a CFG1 write sets the active variant's fields and ignores every other bit; CFG1 then reads the bits it set. -/
def Obligations.Cfg1WriteSetsTheActivePayload : Prop :=
  ∀ (s : State) (d : Word), s.block.phase = .idle → ∃ t, hostWrite 0x20 d s = .next t ∧ OnlyBlock s t ∧
    t.block = { s.block with cfg := { s.block.cfg with pay := t.block.cfg.pay } } ∧
    (∀ q, s.block.cfg.pay = .qspi q →
      t.block.cfg.pay = .qspi (d.extractLsb' 0 24) ∧ t.block.hostValue 0x20 = d &&& 0xFFFFFF) ∧
    (∀ w p, s.block.cfg.pay = .sd w p →
      t.block.cfg.pay = .sd (d.extractLsb' 0 3) (d.extractLsb' 3 1) ∧ t.block.hostValue 0x20 = d &&& 0xF) ∧
    (∀ w m, s.block.cfg.pay = .mmc w m →
      t.block.cfg.pay = .mmc (d.extractLsb' 0 3) (d.extractLsb' 3 4) ∧ t.block.hostValue 0x20 = d &&& 0x7F) ∧
    (s.block.cfg.pay = .rsvd → t.block = s.block ∧ t.block.hostValue 0x20 = 0)

/-- R112: a write to CMD or to an RW register while BUSY is dropped: only OVR is set. -/
def Obligations.WritesAreDroppedWhileBusy : Prop :=
  ∀ (s : State) (off : BitVec 8) (v : Word), s.block.busy = true →
    off ∈ ([0x00, 0x0C, 0x10, 0x14, 0x18, 0x1C, 0x20] : List (BitVec 8)) →
    hostWrite off v s = .next { s with block := { s.block with ovr := true } }

/-- R64: a reserved offset reads 0, and a write to a reserved offset or a read-only register has no effect on any
state, whether or not BUSY is 1. -/
def Obligations.ReservedAndReadOnlyOffsetsIgnoreWrites : Prop :=
  (∀ (b : Block) (off : BitVec 8), off.toNat % 4 = 0 → (off = 0x3C ∨ 0x88 ≤ off) → b.hostValue off = 0) ∧
  ∀ (s : State) (off : BitVec 8) (v : Word), off.toNat % 4 = 0 →
    off ∉ ([0x00, 0x0C, 0x10, 0x14, 0x18, 0x1C, 0x20] : List (BitVec 8)) → hostWrite off v s = .next s

/-- R111, R35: a host read gives the host the value of the register at its offset, whether or not a run is in progress.
It changes no state of the block or the transport (R110); the turn and the operation are taken off. Where the value goes,
the host agent's last value, is the model's choice (log entry 4). -/
def Obligations.HostReadReturnsTheRegister : Prop :=
  (∀ b : Block, b.hostValue 0x00 = 0 ∧ b.hostValue 0x04 = b.statusWord ∧ b.hostValue 0x08 = b.errCode ∧
    b.hostValue 0x14 = b.div ∧ b.hostValue 0x18 = b.raw ∧ b.hostValue 0x2C = b.wout ∧ b.hostValue 0x30 = b.rdbk ∧
    b.hostValue 0x34 = b.dmask ∧ b.hostValue 0x38 = b.lkp ∧
    ∀ f : FieldId, b.hostValue (BitVec.ofNat 8 (0x40 + 8 * (f.number - 1))) = b.dold.get f ∧
      b.hostValue (BitVec.ofNat 8 (0x44 + 8 * (f.number - 1))) = b.dnew.get f) ∧
  ∀ (s : State) (off : BitVec 8) (ops : List HostOp) (ts : List Turn), off.toNat % 4 = 0 →
    ∃ t, step { s with turns := .host :: ts, host := { s.host with program := .read off 32 :: ops } } = .next t ∧
      t.block = s.block ∧ t.transport = s.transport ∧ t.turns = ts ∧ t.host.program = ops ∧
      t.host.data = s.block.hostValue off ∧
      ∀ a, eepromRead t.transport.eeprom a = eepromRead s.transport.eeprom a

/-- R107: a host access at an offset that is not a multiple of 4, or of a width other than 32, is given no step. That
an access with both defects is refused as misaligned is the model's choice (log entry 14). -/
def Obligations.MisalignedOrNarrowAccessIsRefused : Prop :=
  ∀ (s : State) (off : BitVec 8) (width : Nat) (v : Word) (op : HostOp) (ops : List HostOp) (ts : List Turn),
    op = .write off width v ∨ op = .read off width → s.turns = .host :: ts → s.host.program = op :: ops →
    (off.toNat % 4 ≠ 0 → step s = .refused .misalignedAccess) ∧
    (off.toNat % 4 = 0 → width ≠ 32 → step s = .refused .accessWidth)

/-- R176: WAITIDLE reads STATUS and stays the host's next operation while bit 0 reads 1; once it reads 0 the program goes
on. It changes no state of the block or the transport. That one poll is one host step is the model's choice (log
entry 9). -/
def Obligations.WaitIdlePollsStatusUntilIdle : Prop :=
  ∀ (s : State) (ops : List HostOp) (ts : List Turn),
    ∃ t, step { s with turns := .host :: ts, host := { s.host with program := .waitIdle :: ops } } = .next t ∧
      t.block = s.block ∧ t.transport = s.transport ∧ t.turns = ts ∧ t.host.data = s.block.statusWord ∧
      (s.block.busy = true → t.host.program = .waitIdle :: ops) ∧ (s.block.busy = false → t.host.program = ops)

/-- R39, R40: the fields of the STATUS word a host reads, its reserved bits, and the codes of PHASE (R36) and ERRCLASS
(R401). -/
def Obligations.StatusWordHasTheRulesFields : Prop :=
  [Phase.idle, .query, .cancel, .config, .read, .write, .readback].map Phase.code = [0, 1, 2, 3, 4, 5, 6] ∧
  [ErrClass.none, .invalidAddress, .busStateQueryFailed, .busConfigurationFailed, .txnReadFailed, .txnWriteFailed,
    .shortRead, .illegalCommand, .illegalTarget].map ErrClass.code = [0, 1, 2, 3, 4, 5, 6, 7, 8] ∧
  ∀ b : Block, let w := b.hostValue 0x04
    w.getLsbD 0 = (b.phase != .idle) ∧ w.getLsbD 1 = b.done ∧ w.getLsbD 2 = b.err ∧ w.getLsbD 3 = b.changed ∧
    w.getLsbD 4 = b.wrote ∧ w.getLsbD 5 = b.vmismatch ∧ w.getLsbD 6 = b.ovr ∧ w.getLsbD 7 = false ∧
    w.extractLsb' 8 4 = b.errClass.code ∧ w.extractLsb' 12 3 = b.phase.code ∧ w.getLsbD 15 = false ∧
    w.extractLsb' 16 2 = b.nread ∧ w.extractLsb' 18 1 = b.nwrite ∧ w.extractLsb' 19 13 = 0

/-- R31, R54, R55: the variants with their tag codes, and the views of a configuration at CFG0 and CFG1, and of WORK at
WORK0 and WORK1 (R58). -/
def Obligations.ConfigurationViewsHaveTheRulesFields : Prop :=
  (∀ c : BitVec 3, variantOf c = if c = 0 then .qspi else if c = 2 then .sd else if c = 3 then .mmc else .rsvd) ∧
  [Variant.qspi, .sd, .mmc, .rsvd].map Variant.tag = [0, 1, 2, 3] ∧
  (∀ b : Block, b.hostValue 0x1C = view0 b.cfg ∧ b.hostValue 0x20 = view1 b.cfg ∧ b.hostValue 0x24 = view0 b.work ∧
    b.hostValue 0x28 = view1 b.work) ∧
  (∀ c : Cfg, (view0 c).extractLsb' 0 2 = c.phy ∧ (view0 c).extractLsb' 2 3 = c.boot ∧
    (view0 c).extractLsb' 5 1 = c.src ∧ (view0 c).extractLsb' 6 1 = c.xosc ∧ (view0 c).extractLsb' 7 1 = c.pll ∧
    (view0 c).extractLsb' 8 2 = (variantOf c.boot).tag ∧ (view0 c).extractLsb' 10 22 = 0) ∧
  (∀ c : Cfg, match c.pay with
    | .qspi q => (view1 c).extractLsb' 0 24 = q ∧ (view1 c).extractLsb' 24 8 = 0
    | .sd wait speed => (view1 c).extractLsb' 0 3 = wait ∧ (view1 c).extractLsb' 3 1 = speed ∧
        (view1 c).extractLsb' 4 28 = 0
    | .mmc wait mode => (view1 c).extractLsb' 0 3 = wait ∧ (view1 c).extractLsb' 3 4 = mode ∧
        (view1 c).extractLsb' 7 25 = 0
    | .rsvd => view1 c = 0)

/-! The update run: the block's reaction to each response. -/

/-- R321, R322: in phase QUERY an Idle answer leads to Configure(DIV), a Busy one to Cancel, and an error ends the run;
in phase CANCEL the Ack leads to Configure(DIV) without a second Query. -/
def Obligations.PreflightAnswersSelectTheNextPhase : Prop :=
  ∀ (s : State) (ts : List Turn) (p : Response) (b : Block),
    (s.block.phase = .query ∧ s.block.req = some .query ∧
      ((∃ c, p = .err c ∧ b = { s.block with
          err := true, errClass := .busStateQueryFailed, errCode := c, done := false, phase := .idle, req := none }) ∨
        (p = .idle ∧ b = { s.block with phase := .config, req := some (.configure s.block.div) }) ∨
        (p = .busy ∧ b = { s.block with phase := .cancel, req := some .cancel }))) ∨
    (s.block.phase = .cancel ∧ s.block.req = some .cancel ∧ p = .ack ∧
      b = { s.block with phase := .config, req := some (.configure s.block.div) }) →
    ∃ t, step { s with turns := .answer p :: ts } = .next t ∧ t.block = b ∧ t.host = s.host ∧ t.turns = ts ∧
      t.transport.eeprom = s.transport.eeprom ∧ t.transport.abandoned = s.transport.abandoned

/-- R323: in phase CONFIG an Ok leads to the fresh Read of the word with NREAD 1, and an error ends the run. -/
def Obligations.ConfigureAnswerLeadsToRead : Prop :=
  ∀ (s : State) (ts : List Turn) (d : Word), s.block.phase = .config → s.block.req = some (.configure d) →
    (∀ c, step { s with turns := .answer (.err c) :: ts } = .next { s with
      turns := ts
      block := { s.block with
        err := true, errClass := .busConfigurationFailed, errCode := c, done := false
        phase := .idle, req := none } }) ∧
    step { s with turns := .answer .ok :: ts } = .next { s with
      turns := ts
      block := { s.block with phase := .read, nread := 1, req := some (.read s.block.addr 0 4) } }

/-- R324, R325, R330: an error answer to the Read ends the run with TXN_READ_FAILED and the code, and a Data answer of
another length than 4 with SHORT_READ and the length as code, in READ and in READBACK alike; no other register changes
and no request is placed. -/
def Obligations.FailedReadEndsTheRun : Prop :=
  ∀ (s : State) (ts : List Turn) (a : SlaveAddr) (o n : BitVec 8),
    s.block.phase = .read ∨ s.block.phase = .readback → s.block.req = some (.read a o n) →
    (∀ c, step { s with turns := .answer (.err c) :: ts } = .next { s with
      turns := ts
      block := { s.block with
        err := true, errClass := .txnReadFailed, errCode := c, done := false, phase := .idle, req := none } }) ∧
    ∀ bs : List Byte, bs.length ≤ Config.maxXfer → bs.length ≠ 4 →
      ∃ t, step { s with turns := .answer (.data bs) :: ts } = .next t ∧
        t = { s with
          turns := ts
          block := { s.block with
            err := true, errClass := .shortRead, errCode := t.block.errCode, done := false
            phase := .idle, req := none } } ∧
        t.block.errCode.toNat = bs.length

/-- R326, R327: four bytes in phase READ store RAW and CFG and plan; when the delta is non-empty the whole planned word
is placed in one Write and WOUT holds it. -/
def Obligations.WordReadWithDeltaPlacesTheWrite : Prop :=
  ∀ (s : State) (ts : List Turn) (a : SlaveAddr) (o n : BitVec 8) (r : Word), s.block.phase = .read →
    s.block.req = some (.read a o n) → plan (decodeRcw r) s.block.target ≠ decodeRcw r →
    s.block.target = 0 ∨ s.block.target = 2 ∨ s.block.target = 3 →
    ∃ t, step { s with turns := .answer (.data (bytesLE r)) :: ts } = .next t ∧
      t = { s with
        turns := ts
        block := { s.block with
          raw := r, cfg := decodeRcw r, work := plan (decodeRcw r) s.block.target
          dold := t.block.dold, dnew := t.block.dnew, dmask := t.block.dmask, changed := true
          wout := encodeRcw (plan (decodeRcw r) s.block.target), phase := .write, nwrite := 1
          req := some (.write s.block.addr 0 (bytesLE (encodeRcw (plan (decodeRcw r) s.block.target)))) } } ∧
      t.block.dmask ≠ 0 ∧
      (∀ f, t.block.dold.get f = encField (fieldVal (decodeRcw r) f)) ∧
      (∀ f, t.block.dnew.get f = encField (fieldVal (plan (decodeRcw r) s.block.target) f)) ∧
      (∀ f, t.block.dmask.getLsbD f.number = (t.block.dold.get f != t.block.dnew.get f)) ∧
      t.block.dmask &&& 0xFFFFFC01 = 0

/-- R328: a run whose plan changes no field ends with DONE, no Write and no read-back, WOUT and RDBK unchanged. -/
def Obligations.WordReadWithoutDeltaEndsTheRun : Prop :=
  ∀ (s : State) (ts : List Turn) (a : SlaveAddr) (o n : BitVec 8) (r : Word), s.block.phase = .read →
    s.block.req = some (.read a o n) → plan (decodeRcw r) s.block.target = decodeRcw r →
    ∃ t, step { s with turns := .answer (.data (bytesLE r)) :: ts } = .next t ∧
      t = { s with
        turns := ts
        block := { s.block with
          raw := r, cfg := decodeRcw r, work := decodeRcw r, dold := t.block.dold, dnew := t.block.dold, dmask := 0
          changed := false, done := true, phase := .idle, req := none } } ∧
      (∀ f, t.block.dold.get f = encField (fieldVal (decodeRcw r) f)) ∧
      (s.block.progressLegal = true → t.block.wrote = false ∧ t.block.nread = 1 ∧ t.block.nwrite = 0)

/-- R329, R123: an Ok answer to the Write leads to the read-back with NREAD 2 and WROTE, and the EEPROM then holds the
bytes written; every other byte reads as before. That the answer itself stores them is the model's reading of R123 (log
entry 11). -/
def Obligations.WriteAckLeadsToReadBack : Prop :=
  ∀ (s : State) (ts : List Turn) (a : SlaveAddr) (b0 b1 b2 b3 : Byte), s.block.phase = .write →
    s.block.req = some (.write a 0 [b0, b1, b2, b3]) →
    ∃ t, step { s with turns := .answer .ok :: ts } = .next t ∧ t.turns = ts ∧ t.host = s.host ∧
      t.block = { s.block with
        wrote := true, phase := .readback, nread := 2, req := some (.read s.block.addr 0 4) } ∧
      t.transport = { s.transport with eeprom := t.transport.eeprom } ∧
      eepromReadBytes t.transport.eeprom a 0 4 = [b0, b1, b2, b3] ∧
      ∀ k, k ∉ eepromKeys a 0 4 → eepromRead t.transport.eeprom k = eepromRead s.transport.eeprom k

/-- R329, R114: an error answer to the Write ends the run with TXN_WRITE_FAILED, without read-back or retry; the bytes it
was storing to may hold any values (log entry 6), and every other byte reads as before. -/
def Obligations.WriteErrorEndsTheRun : Prop :=
  ∀ (s : State) (ts : List Turn) (a : SlaveAddr) (o : BitVec 8) (bs : List Byte) (c : Word), s.block.phase = .write →
    s.block.req = some (.write a o bs) →
    ∃ t, step { s with turns := .answer (.err c) :: ts } = .next t ∧ t.turns = ts ∧ t.host = s.host ∧
      t.block = { s.block with
        err := true, errClass := .txnWriteFailed, errCode := c, done := false, phase := .idle, req := none } ∧
      t.transport.bus = s.transport.bus ∧ t.transport.abandoned = s.transport.abandoned ∧
      ∀ k, k ∉ eepromKeys a o bs.length → eepromRead t.transport.eeprom k = eepromRead s.transport.eeprom k

/-- R331: four bytes in phase READBACK store RDBK and CFG, set VMISMATCH to whether the word differs from WOUT, and end
the run with DONE. -/
def Obligations.ReadBackConfirmsTheWord : Prop :=
  ∀ (s : State) (ts : List Turn) (a : SlaveAddr) (o n : BitVec 8) (r : Word), s.block.phase = .readback →
    s.block.req = some (.read a o n) →
    step { s with turns := .answer (.data (bytesLE r)) :: ts } = .next { s with
      turns := ts
      block := { s.block with
        rdbk := r, cfg := decodeRcw r, vmismatch := r != s.block.wout, done := true, phase := .idle, req := none } }

/-- R119, R121: the responses each request kind admits, and that a response when no request is outstanding, or of a kind
the outstanding request does not admit, is given no step. -/
def Obligations.UnadmittedResponsesGetNoStep : Prop :=
  (∀ (r : Request) (p : Response), r.admits p = true ↔
    (r = .query ∧ (p = .idle ∨ p = .busy ∨ ∃ c, p = .err c)) ∨
    (r = .cancel ∧ p = .ack) ∨
    (∃ d, r = .configure d ∧ (p = .ok ∨ ∃ c, p = .err c)) ∨
    (∃ a o n, r = .read a o n ∧ ((∃ bs : List Byte, p = .data bs ∧ bs.length ≤ 60) ∨ ∃ c, p = .err c)) ∨
    (∃ a o bs, r = .write a o bs ∧ (p = .ok ∨ ∃ c, p = .err c))) ∧
  ∀ (s : State) (p : Response) (ts : List Turn), s.turns = .answer p :: ts →
    (s.block.req = none → step s = .refused .noOutstandingRequest) ∧
    (∀ r, s.block.req = some r → r.admits p = false → step s = .refused .responseNotAdmitted)

/-! Whole runs. -/

/-- R333, R334: whatever the transport answers, the requests an UPDATE run places are a prefix of
`Query, [Cancel], Configure, Read, Write, Read`. So there are at most 6, at most 2 of them reads and at most 1 a
write. -/
def Obligations.RunPlacesALegalRequestSequence : Prop :=
  ∀ (s t : State) (ps : List Response), s.block.phase = .idle → exec .update s = .next t →
    (∃ whole ∈ wholeSequences, (requestsPlaced ps t).map Request.kind <+: whole) ∧
    (requestsPlaced ps t).length ≤ 6 ∧
    ((requestsPlaced ps t).map Request.kind).count .read ≤ 2 ∧
    ((requestsPlaced ps t).map Request.kind).count .write ≤ 1

/-- R66: the outcome of an UPDATE run depends only on ADDR, TARGET, DIV and the responses. Two runs from any two states
that agree on these, under the same responses, place the same requests, reach the same phase and STATUS, and treat
every data register alike: both write the same value to it, or neither writes it. -/
def Obligations.RunOutcomeIgnoresEarlierValues : Prop :=
  ∀ (s₁ s₂ u₁ u₂ t₁ t₂ : State) (ps : List Response),
    s₁.block.phase = .idle → s₂.block.phase = .idle → s₁.block.addr = s₂.block.addr →
    s₁.block.target = s₂.block.target → s₁.block.div = s₂.block.div → s₁.transport = s₂.transport →
    exec .update s₁ = .next u₁ → exec .update s₂ = .next u₂ →
    requestsPlaced ps u₁ = requestsPlaced ps u₂ ∧
    (runTurns (ps.map .answer) u₁ = .next t₁ → runTurns (ps.map .answer) u₂ = .next t₂ →
      t₁.block.phase = t₂.block.phase ∧ t₁.block.req = t₂.block.req ∧
      t₁.block.statusWord = t₂.block.statusWord ∧ t₁.block.errCode = t₂.block.errCode ∧
      t₁.block.dmask = t₂.block.dmask ∧ t₁.transport = t₂.transport ∧
      treatedAlike s₁.block.raw s₂.block.raw t₁.block.raw t₂.block.raw ∧
      treatedAlike s₁.block.cfg s₂.block.cfg t₁.block.cfg t₂.block.cfg ∧
      treatedAlike s₁.block.work s₂.block.work t₁.block.work t₂.block.work ∧
      treatedAlike s₁.block.wout s₂.block.wout t₁.block.wout t₂.block.wout ∧
      treatedAlike s₁.block.rdbk s₂.block.rdbk t₁.block.rdbk t₂.block.rdbk ∧
      treatedAlike s₁.block.dold s₂.block.dold t₁.block.dold t₂.block.dold ∧
      treatedAlike s₁.block.dnew s₂.block.dnew t₁.block.dnew t₂.block.dnew)

/-- The EEPROM changes only through a response to an outstanding Write, a reset that abandons one, or the change by other
means that the environment is allowed: every other step leaves every byte as it reads (R115, R128, R452). -/
def Obligations.EepromChangesOnlyThroughWrites : Prop :=
  ∀ s t : State, step s = .next t → (∀ a o bs, s.block.req ≠ some (.write a o bs)) →
    (∀ a o bs ts, s.turns ≠ .eepromChange a o bs :: ts) →
    ∀ k, eepromRead t.transport.eeprom k = eepromRead s.transport.eeprom k

/-- R124: in the environment of the test programs, an update run on a word that needs a change, with an idle bus and the
EEPROM at the address in ADDR, ends after five answers with DONE, no mismatch, the planned word in the EEPROM and CFG
the planned configuration. -/
def Obligations.RunInTheEnvironmentWritesThePlannedWord : Prop :=
  ∀ (s t : State), Inv s → s.block.phase = .idle → s.block.addr = Config.eepromAddr → s.transport.bus = .idle →
    exec .update s = .next t → ∀ r : Word,
    eepromReadBytes s.transport.eeprom s.block.addr 0 4 = bytesLE r →
    plan (decodeRcw r) s.block.target ≠ decodeRcw r →
    ∃ u, runTurns (List.replicate 5 .environment) t = .next u ∧ u.block.phase = .idle ∧ u.block.done = true ∧
      u.block.err = false ∧ u.block.wrote = true ∧ u.block.vmismatch = false ∧
      u.block.cfg = plan (decodeRcw r) s.block.target ∧
      eepromReadBytes u.transport.eeprom s.block.addr 0 4 =
        bytesLE (encodeRcw (plan (decodeRcw r) s.block.target))

/-- R124, R328: in the same environment, whatever the bus state, an update run on a word that is already as planned
ends with DONE after a single read: nothing is written, and WOUT, RDBK and the EEPROM are as they were. -/
def Obligations.RunOnAPlannedWordWritesNothing : Prop :=
  ∀ (s t : State), s.block.phase = .idle → s.block.addr = Config.eepromAddr → exec .update s = .next t → ∀ r : Word,
    eepromReadBytes s.transport.eeprom s.block.addr 0 4 = bytesLE r →
    plan (decodeRcw r) s.block.target = decodeRcw r →
    ∃ u, runTurns (List.replicate (if s.transport.bus = .busy then 4 else 3) .environment) t = .next u ∧
      u.block.phase = .idle ∧ u.block.done = true ∧ u.block.err = false ∧ u.block.wrote = false ∧
      u.block.changed = false ∧ u.block.nread = 1 ∧ u.block.nwrite = 0 ∧ u.block.cfg = decodeRcw r ∧
      u.block.wout = s.block.wout ∧ u.block.rdbk = s.block.rdbk ∧ u.transport.eeprom = s.transport.eeprom ∧
      u.transport.bus = .idle

/-! The codec and the update policy. -/

/-- R6: a field is extracted by mask and shift, and `put` places the masked value. -/
def Obligations.FieldsAreMaskAndShift : Prop :=
  ∀ (w : Word) (lo n : Nat), n ≤ 32 →
    (getBits w lo n).setWidth 32 = (w >>> lo) &&& ((1 <<< n) - 1) ∧
    putBits (w.setWidth n) lo = (w &&& ((1 <<< n) - 1)) <<< lo

/-- R7: the four bytes of a word, the first the least significant, and that `bytesLE` and `LE` are inverse. -/
def Obligations.LittleEndianBytesAreInverse : Prop :=
  (∀ b0 b1 b2 b3 : Byte, wordLE b0 b1 b2 b3 =
    b0.setWidth 32 ||| (b1.setWidth 32 <<< 8) ||| (b2.setWidth 32 <<< 16) ||| (b3.setWidth 32 <<< 24)) ∧
  (∀ w : Word, bytesLE w = [w.extractLsb' 0 8, w.extractLsb' 8 8, w.extractLsb' 16 8, w.extractLsb' 24 8]) ∧
  (∀ w : Word, ∃ b0 b1 b2 b3, bytesLE w = [b0, b1, b2, b3] ∧ wordLE b0 b1 b2 b3 = w) ∧
  ∀ b0 b1 b2 b3 : Byte, bytesLE (wordLE b0 b1 b2 b3) = [b0, b1, b2, b3]

/-- R165, R166: gather and scatter of the QSPI payload, that they are inverse, and that scatter touches the payload bits
only. -/
def Obligations.QspiGatherScatterAreInverse : Prop :=
  (∀ w : Word, gatherQ w = (((w.extractLsb' 2 3).setWidth 24) ||| ((w.extractLsb' 9 7).setWidth 24 <<< 3) |||
    ((w.extractLsb' 17 14).setWidth 24 <<< 10))) ∧
  (∀ q : BitVec 24, scatterQ q = (((q.extractLsb' 0 3).setWidth 32 <<< 2) |||
    ((q.extractLsb' 3 7).setWidth 32 <<< 9) ||| ((q.extractLsb' 10 14).setWidth 32 <<< 17))) ∧
  (∀ q : BitVec 24, scatterQ q &&& ~~~0x7FFEFE1C = 0) ∧
  (∀ q : BitVec 24, gatherQ (scatterQ q) = q) ∧ ∀ w : Word, scatterQ (gatherQ w) = w &&& 0x7FFEFE1C

/-- R230, R231, R150 to R154: the fields every word decodes to, and that the configuration is well-formed: the common
fields by position, then the payload of the variant the boot code selects, codes without a label kept as they are. -/
def Obligations.EveryWordDecodesToTheRulesFields : Prop :=
  ∀ w : Word, (decodeRcw w).wf = true ∧
    (decodeRcw w).phy = w.extractLsb' 0 2 ∧ (decodeRcw w).boot = w.extractLsb' 5 3 ∧
    (decodeRcw w).src = w.extractLsb' 8 1 ∧ (decodeRcw w).xosc = w.extractLsb' 16 1 ∧
    (decodeRcw w).pll = w.extractLsb' 31 1 ∧
    (w.extractLsb' 5 3 = 0 → (decodeRcw w).pay = .qspi (gatherQ w)) ∧
    (w.extractLsb' 5 3 = 2 → (decodeRcw w).pay = .sd (w.extractLsb' 17 3) (w.extractLsb' 20 1)) ∧
    (w.extractLsb' 5 3 = 3 → (decodeRcw w).pay = .mmc (w.extractLsb' 17 3) (w.extractLsb' 20 4)) ∧
    (w.extractLsb' 5 3 ∈ ([1, 4, 5, 6, 7] : List (BitVec 3)) → (decodeRcw w).pay = .rsvd)

/-- R236: encoding a decoded word keeps exactly the bits its variant gives meaning to (R155); every QSPI word
round-trips, and an SD or MMC word exactly when its reserved bits are 0. -/
def Obligations.EncodeOfDecodeKeepsMeaningfulBits : Prop :=
  [Variant.qspi, .sd, .mmc, .rsvd].map keepMask = [0xFFFFFFFF, 0x801F01E3, 0x80FF01E3, 0x800101E3] ∧
  ∀ w : Word, encodeRcw (decodeRcw w) = w &&& keepMask (variantOf (w.extractLsb' 5 3)) ∧
    (w.extractLsb' 5 3 = 0 → encodeRcw (decodeRcw w) = w) ∧
    (w.extractLsb' 5 3 ∈ ([2, 3] : List (BitVec 3)) →
      (encodeRcw (decodeRcw w) = w ↔ w &&& ~~~(keepMask (variantOf (w.extractLsb' 5 3))) = 0))

/-- R237: decoding the encoding of a well-formed configuration gives it back. -/
def Obligations.DecodeOfEncodedCfgIsTheCfg : Prop :=
  ∀ c : Cfg, c.wf = true → decodeRcw (encodeRcw c) = c

/-- R238: encode sets no bit outside the active variant's fields. -/
def Obligations.EncodeSetsNoReservedBit : Prop :=
  ∀ c : Cfg, c.wf = true → encodeRcw c &&& ~~~(keepMask (variantOf c.boot)) = 0

/-- R297: the plan is idempotent and its delta against its own plan is empty. -/
def Obligations.PlanIsIdempotent : Prop :=
  ∀ (c : Cfg) (t : BitVec 3), c.wf = true → t = 0 ∨ t = 2 ∨ t = 3 →
    plan (plan c t) t = plan c t ∧
    deltaMask (FieldRegs.ofCfg (plan c t)) (FieldRegs.ofCfg (plan (plan c t) t)) = 0

/-- R291, R292, R298: what the plan reaches from a well-formed configuration: src I2C, the target's boot code, and the
payload, which is kept when the boot code stays and is reset to zero when it changes, and under SD is forced to speed High
and the 50 ms wait. After a switch to SD no bit of the earlier payload is left in the encoded word. -/
def Obligations.PlanReachesTheKnownGoodSettings : Prop :=
  ∀ (c : Cfg) (t : BitVec 3), c.wf = true → t = 0 ∨ t = 2 ∨ t = 3 →
    (plan c t).wf = true ∧
    plan c t = { c with
      src := 1, boot := t
      pay := if t = 2 then .sd 7 1 else if c.boot = t then c.pay else if t = 0 then .qspi 0 else .mmc 0 0 } ∧
    (c.boot ≠ 2 → t = 2 → (planBoot t (planSource c)).pay = .sd 0 0 ∧
      encodeRcw (plan c t) &&& 0x7FFEFE1C = 0x001E0000)

/-- R299: the plan never changes phy, xosc or pll, and DMASK bits 7, 8 and 9 of its delta are 0. -/
def Obligations.PlanKeepsPhyXoscPll : Prop :=
  ∀ (c : Cfg) (t : BitVec 3), (plan c t).phy = c.phy ∧ (plan c t).xosc = c.xosc ∧ (plan c t).pll = c.pll ∧
    deltaMask (FieldRegs.ofCfg c) (FieldRegs.ofCfg (plan c t)) &&& 0x380 = 0

/-- R49, R62, R293: the field ids, the value of each field or its absence, the nine delta registers of a configuration,
and the mask that compares two of them. -/
def Obligations.DeltaRegistersHoldTheEncodedFields : Prop :=
  FieldId.all.map FieldId.number = [1, 2, 3, 4, 5, 6, 7, 8, 9] ∧ (∀ f : FieldId, f ∈ FieldId.all) ∧
  (∀ c : Cfg, fieldVal c .src = some (c.src.setWidth 32) ∧ fieldVal c .boot = some (c.boot.setWidth 32) ∧
    fieldVal c .phy = some (c.phy.setWidth 32) ∧ fieldVal c .xosc = some (c.xosc.setWidth 32) ∧
    fieldVal c .pll = some (c.pll.setWidth 32) ∧
    (∀ q, c.pay = .qspi q → fieldVal c .qspiQ = some (q.setWidth 32) ∧ fieldVal c .speed = none ∧
      fieldVal c .wait = none ∧ fieldVal c .mmcMode = none) ∧
    (∀ w p, c.pay = .sd w p → fieldVal c .qspiQ = none ∧ fieldVal c .speed = some (p.setWidth 32) ∧
      fieldVal c .wait = some (w.setWidth 32) ∧ fieldVal c .mmcMode = none) ∧
    (∀ w m, c.pay = .mmc w m → fieldVal c .qspiQ = none ∧ fieldVal c .speed = none ∧
      fieldVal c .wait = some (w.setWidth 32) ∧ fieldVal c .mmcMode = some (m.setWidth 32)) ∧
    (c.pay = .rsvd → fieldVal c .qspiQ = none ∧ fieldVal c .speed = none ∧ fieldVal c .wait = none ∧
      fieldVal c .mmcMode = none)) ∧
  encField none = 0x00000000 ∧ (∀ v : Word, encField (some v) = 0x80000000 ||| v) ∧
  (∀ (c : Cfg) (f : FieldId), (FieldRegs.ofCfg c).get f = encField (fieldVal c f)) ∧
  ∀ o n : FieldRegs, (∀ f, (deltaMask o n).getLsbD f.number = (o.get f != n.get f)) ∧
    deltaMask o n &&& 0xFFFFFC01 = 0

/-- R293, R294: the delta of two well-formed configurations is empty exactly when they agree in every field. -/
def Obligations.DeltaIsEmptyExactlyWhenEqual : Prop :=
  ∀ c d : Cfg, c.wf = true → d.wf = true →
    (deltaMask (FieldRegs.ofCfg c) (FieldRegs.ofCfg d) = 0 ↔ c = d)
end

