-- ==== Sys2Proof/Laws/Bits.lean ====
section
/-! SUPPORT. The bit-field operations of Operands read bit by bit, and the variants a boot code can select. -/

namespace Sys2Proof.Machine

@[simp] theorem getLsbD_getBits (w : Word) (lo n i : Nat) :
    (getBits w lo n).getLsbD i = (decide (i < n) && w.getLsbD (lo + i)) := by
  simp [getBits, BitVec.getLsbD_extractLsb']

@[simp] theorem getLsbD_putBits {n : Nat} (v : BitVec n) (lo i : Nat) :
    (putBits v lo).getLsbD i = (decide (i < 32) && (decide (lo ≤ i) && v.getLsbD (i - lo))) := by
  simp only [putBits, BitVec.getLsbD_shiftLeft, BitVec.getLsbD_setWidth]
  by_cases h1 : i < 32
  · have h3 : i - lo < 32 := by omega
    by_cases h2 : i < lo <;> simp [h1, h2, h3, Nat.not_le.2, Nat.le_of_not_lt]
  · simp [h1]

/-- A boot code selects QSPI exactly when it is 0 (R31). -/
theorem variantOf_qspi {b : BitVec 3} : variantOf b = .qspi ↔ b = 0 := by revert b; decide

/-- A boot code selects SD exactly when it is 2 (R31). -/
theorem variantOf_sd {b : BitVec 3} : variantOf b = .sd ↔ b = 2 := by revert b; decide

/-- A boot code selects MMC exactly when it is 3 (R31). -/
theorem variantOf_mmc {b : BitVec 3} : variantOf b = .mmc ↔ b = 3 := by revert b; decide

/-- The quad-SPI mode has 3 bits, whatever the layout (R167). -/
theorem qspiSubfieldBits_mode_length (l : QspiLayout) (q : BitVec 24) :
    (qspiSubfieldBits l .quadSpiMode q).length = 3 := by simp [qspiSubfieldBits, l.mode_width]

/-- Every other boot code is reserved (R31). -/
theorem variantOf_rsvd {b : BitVec 3} : variantOf b = .rsvd ↔ b ≠ 0 ∧ b ≠ 2 ∧ b ≠ 3 := by revert b; decide

@[simp] theorem zeroPayload_variant (v : Variant) : (zeroPayload v).variant = v := by cases v <;> rfl

@[simp] theorem decodePayload_variant (v : Variant) (w : Word) : (decodePayload v w).variant = v := by cases v <;> rfl

/-- A well-formed configuration's payload is of the variant its boot code selects (R32). -/
theorem Cfg.wf_iff (c : Cfg) : c.wf = true ↔ c.pay.variant = variantOf c.boot := by simp [Cfg.wf]

theorem FieldRegs.ofCfg_get (c : Cfg) (f : FieldId) : (FieldRegs.ofCfg c).get f = encField (fieldVal c f) := by
  cases f <;> rfl

/-- DMASK bit by bit: bit f for the nine field ids, 0 everywhere else (R61, R293). -/
theorem deltaMask_getLsbD (o n : FieldRegs) (f : FieldId) :
    (deltaMask o n).getLsbD f.number = (o.get f != n.get f) := by
  simp only [deltaMask, BitVec.getLsbD_setWidth, BitVec.getLsbD_append]
  cases f <;> simp [FieldId.number]

end Sys2Proof.Machine
end

