-- ==== Sys2Proof/Laws/State.lean ====
section
/-! SUPPORT. What each shared update of the block does to each of its fields, so that no later proof unfolds a record
update. The two fields that `raiseError` writes through BUSY are in Laws/Ops. -/

namespace Sys2Proof.Machine

variable (b : Block)

/-! `clearForTake` (R201) -/

@[simp] theorem Block.clearForTake_phase : (b.clearForTake).phase = b.phase := rfl
@[simp] theorem Block.clearForTake_req : (b.clearForTake).req = b.req := rfl
@[simp] theorem Block.clearForTake_done : (b.clearForTake).done = false := rfl
@[simp] theorem Block.clearForTake_err : (b.clearForTake).err = false := rfl
@[simp] theorem Block.clearForTake_changed : (b.clearForTake).changed = b.changed := rfl
@[simp] theorem Block.clearForTake_wrote : (b.clearForTake).wrote = b.wrote := rfl
@[simp] theorem Block.clearForTake_vmismatch : (b.clearForTake).vmismatch = b.vmismatch := rfl
@[simp] theorem Block.clearForTake_ovr : (b.clearForTake).ovr = false := rfl
@[simp] theorem Block.clearForTake_errClass : (b.clearForTake).errClass = .none := rfl
@[simp] theorem Block.clearForTake_nread : (b.clearForTake).nread = b.nread := rfl
@[simp] theorem Block.clearForTake_nwrite : (b.clearForTake).nwrite = b.nwrite := rfl
@[simp] theorem Block.clearForTake_errCode : (b.clearForTake).errCode = 0 := rfl
@[simp] theorem Block.clearForTake_addr : (b.clearForTake).addr = b.addr := rfl
@[simp] theorem Block.clearForTake_target : (b.clearForTake).target = b.target := rfl
@[simp] theorem Block.clearForTake_div : (b.clearForTake).div = b.div := rfl
@[simp] theorem Block.clearForTake_raw : (b.clearForTake).raw = b.raw := rfl
@[simp] theorem Block.clearForTake_cfg : (b.clearForTake).cfg = b.cfg := rfl
@[simp] theorem Block.clearForTake_work : (b.clearForTake).work = b.work := rfl
@[simp] theorem Block.clearForTake_wout : (b.clearForTake).wout = b.wout := rfl
@[simp] theorem Block.clearForTake_rdbk : (b.clearForTake).rdbk = b.rdbk := rfl
@[simp] theorem Block.clearForTake_dmask : (b.clearForTake).dmask = b.dmask := rfl
@[simp] theorem Block.clearForTake_lkp : (b.clearForTake).lkp = b.lkp := rfl
@[simp] theorem Block.clearForTake_dold : (b.clearForTake).dold = b.dold := rfl
@[simp] theorem Block.clearForTake_dnew : (b.clearForTake).dnew = b.dnew := rfl

/-! `setDone` (R203) -/

@[simp] theorem Block.setDone_phase : (b.setDone).phase = b.phase := rfl
@[simp] theorem Block.setDone_req : (b.setDone).req = b.req := rfl
@[simp] theorem Block.setDone_done : (b.setDone).done = true := rfl
@[simp] theorem Block.setDone_err : (b.setDone).err = b.err := rfl
@[simp] theorem Block.setDone_changed : (b.setDone).changed = b.changed := rfl
@[simp] theorem Block.setDone_wrote : (b.setDone).wrote = b.wrote := rfl
@[simp] theorem Block.setDone_vmismatch : (b.setDone).vmismatch = b.vmismatch := rfl
@[simp] theorem Block.setDone_ovr : (b.setDone).ovr = b.ovr := rfl
@[simp] theorem Block.setDone_errClass : (b.setDone).errClass = b.errClass := rfl
@[simp] theorem Block.setDone_nread : (b.setDone).nread = b.nread := rfl
@[simp] theorem Block.setDone_nwrite : (b.setDone).nwrite = b.nwrite := rfl
@[simp] theorem Block.setDone_errCode : (b.setDone).errCode = b.errCode := rfl
@[simp] theorem Block.setDone_addr : (b.setDone).addr = b.addr := rfl
@[simp] theorem Block.setDone_target : (b.setDone).target = b.target := rfl
@[simp] theorem Block.setDone_div : (b.setDone).div = b.div := rfl
@[simp] theorem Block.setDone_raw : (b.setDone).raw = b.raw := rfl
@[simp] theorem Block.setDone_cfg : (b.setDone).cfg = b.cfg := rfl
@[simp] theorem Block.setDone_work : (b.setDone).work = b.work := rfl
@[simp] theorem Block.setDone_wout : (b.setDone).wout = b.wout := rfl
@[simp] theorem Block.setDone_rdbk : (b.setDone).rdbk = b.rdbk := rfl
@[simp] theorem Block.setDone_dmask : (b.setDone).dmask = b.dmask := rfl
@[simp] theorem Block.setDone_lkp : (b.setDone).lkp = b.lkp := rfl
@[simp] theorem Block.setDone_dold : (b.setDone).dold = b.dold := rfl
@[simp] theorem Block.setDone_dnew : (b.setDone).dnew = b.dnew := rfl

/-! `dropWrite` (R112) -/

@[simp] theorem Block.dropWrite_phase : (b.dropWrite).phase = b.phase := rfl
@[simp] theorem Block.dropWrite_req : (b.dropWrite).req = b.req := rfl
@[simp] theorem Block.dropWrite_done : (b.dropWrite).done = b.done := rfl
@[simp] theorem Block.dropWrite_err : (b.dropWrite).err = b.err := rfl
@[simp] theorem Block.dropWrite_changed : (b.dropWrite).changed = b.changed := rfl
@[simp] theorem Block.dropWrite_wrote : (b.dropWrite).wrote = b.wrote := rfl
@[simp] theorem Block.dropWrite_vmismatch : (b.dropWrite).vmismatch = b.vmismatch := rfl
@[simp] theorem Block.dropWrite_ovr : (b.dropWrite).ovr = true := rfl
@[simp] theorem Block.dropWrite_errClass : (b.dropWrite).errClass = b.errClass := rfl
@[simp] theorem Block.dropWrite_nread : (b.dropWrite).nread = b.nread := rfl
@[simp] theorem Block.dropWrite_nwrite : (b.dropWrite).nwrite = b.nwrite := rfl
@[simp] theorem Block.dropWrite_errCode : (b.dropWrite).errCode = b.errCode := rfl
@[simp] theorem Block.dropWrite_addr : (b.dropWrite).addr = b.addr := rfl
@[simp] theorem Block.dropWrite_target : (b.dropWrite).target = b.target := rfl
@[simp] theorem Block.dropWrite_div : (b.dropWrite).div = b.div := rfl
@[simp] theorem Block.dropWrite_raw : (b.dropWrite).raw = b.raw := rfl
@[simp] theorem Block.dropWrite_cfg : (b.dropWrite).cfg = b.cfg := rfl
@[simp] theorem Block.dropWrite_work : (b.dropWrite).work = b.work := rfl
@[simp] theorem Block.dropWrite_wout : (b.dropWrite).wout = b.wout := rfl
@[simp] theorem Block.dropWrite_rdbk : (b.dropWrite).rdbk = b.rdbk := rfl
@[simp] theorem Block.dropWrite_dmask : (b.dropWrite).dmask = b.dmask := rfl
@[simp] theorem Block.dropWrite_lkp : (b.dropWrite).lkp = b.lkp := rfl
@[simp] theorem Block.dropWrite_dold : (b.dropWrite).dold = b.dold := rfl
@[simp] theorem Block.dropWrite_dnew : (b.dropWrite).dnew = b.dnew := rfl

/-! `finish` (R332) -/

@[simp] theorem Block.finish_phase : (b.finish).phase = .idle := rfl
@[simp] theorem Block.finish_req : (b.finish).req = none := rfl
@[simp] theorem Block.finish_done : (b.finish).done = true := rfl
@[simp] theorem Block.finish_err : (b.finish).err = b.err := rfl
@[simp] theorem Block.finish_changed : (b.finish).changed = b.changed := rfl
@[simp] theorem Block.finish_wrote : (b.finish).wrote = b.wrote := rfl
@[simp] theorem Block.finish_vmismatch : (b.finish).vmismatch = b.vmismatch := rfl
@[simp] theorem Block.finish_ovr : (b.finish).ovr = b.ovr := rfl
@[simp] theorem Block.finish_errClass : (b.finish).errClass = b.errClass := rfl
@[simp] theorem Block.finish_nread : (b.finish).nread = b.nread := rfl
@[simp] theorem Block.finish_nwrite : (b.finish).nwrite = b.nwrite := rfl
@[simp] theorem Block.finish_errCode : (b.finish).errCode = b.errCode := rfl
@[simp] theorem Block.finish_addr : (b.finish).addr = b.addr := rfl
@[simp] theorem Block.finish_target : (b.finish).target = b.target := rfl
@[simp] theorem Block.finish_div : (b.finish).div = b.div := rfl
@[simp] theorem Block.finish_raw : (b.finish).raw = b.raw := rfl
@[simp] theorem Block.finish_cfg : (b.finish).cfg = b.cfg := rfl
@[simp] theorem Block.finish_work : (b.finish).work = b.work := rfl
@[simp] theorem Block.finish_wout : (b.finish).wout = b.wout := rfl
@[simp] theorem Block.finish_rdbk : (b.finish).rdbk = b.rdbk := rfl
@[simp] theorem Block.finish_dmask : (b.finish).dmask = b.dmask := rfl
@[simp] theorem Block.finish_lkp : (b.finish).lkp = b.lkp := rfl
@[simp] theorem Block.finish_dold : (b.finish).dold = b.dold := rfl
@[simp] theorem Block.finish_dnew : (b.finish).dnew = b.dnew := rfl

/-! `place` (R118) -/

@[simp] theorem Block.place_phase (r : Request) : (b.place r).phase = b.phase := rfl
@[simp] theorem Block.place_req (r : Request) : (b.place r).req = some r := rfl
@[simp] theorem Block.place_done (r : Request) : (b.place r).done = b.done := rfl
@[simp] theorem Block.place_err (r : Request) : (b.place r).err = b.err := rfl
@[simp] theorem Block.place_changed (r : Request) : (b.place r).changed = b.changed := rfl
@[simp] theorem Block.place_wrote (r : Request) : (b.place r).wrote = b.wrote := rfl
@[simp] theorem Block.place_vmismatch (r : Request) : (b.place r).vmismatch = b.vmismatch := rfl
@[simp] theorem Block.place_ovr (r : Request) : (b.place r).ovr = b.ovr := rfl
@[simp] theorem Block.place_errClass (r : Request) : (b.place r).errClass = b.errClass := rfl
@[simp] theorem Block.place_nread (r : Request) : (b.place r).nread = b.nread := rfl
@[simp] theorem Block.place_nwrite (r : Request) : (b.place r).nwrite = b.nwrite := rfl
@[simp] theorem Block.place_errCode (r : Request) : (b.place r).errCode = b.errCode := rfl
@[simp] theorem Block.place_addr (r : Request) : (b.place r).addr = b.addr := rfl
@[simp] theorem Block.place_target (r : Request) : (b.place r).target = b.target := rfl
@[simp] theorem Block.place_div (r : Request) : (b.place r).div = b.div := rfl
@[simp] theorem Block.place_raw (r : Request) : (b.place r).raw = b.raw := rfl
@[simp] theorem Block.place_cfg (r : Request) : (b.place r).cfg = b.cfg := rfl
@[simp] theorem Block.place_work (r : Request) : (b.place r).work = b.work := rfl
@[simp] theorem Block.place_wout (r : Request) : (b.place r).wout = b.wout := rfl
@[simp] theorem Block.place_rdbk (r : Request) : (b.place r).rdbk = b.rdbk := rfl
@[simp] theorem Block.place_dmask (r : Request) : (b.place r).dmask = b.dmask := rfl
@[simp] theorem Block.place_lkp (r : Request) : (b.place r).lkp = b.lkp := rfl
@[simp] theorem Block.place_dold (r : Request) : (b.place r).dold = b.dold := rfl
@[simp] theorem Block.place_dnew (r : Request) : (b.place r).dnew = b.dnew := rfl

/-! `raiseError` (R403) -/

@[simp] theorem Block.raiseError_done (k : ErrClass) (c : Word) : (b.raiseError k c).done = false := rfl
@[simp] theorem Block.raiseError_err (k : ErrClass) (c : Word) : (b.raiseError k c).err = true := rfl
@[simp] theorem Block.raiseError_changed (k : ErrClass) (c : Word) : (b.raiseError k c).changed = b.changed := rfl
@[simp] theorem Block.raiseError_wrote (k : ErrClass) (c : Word) : (b.raiseError k c).wrote = b.wrote := rfl
@[simp] theorem Block.raiseError_vmismatch (k : ErrClass) (c : Word) : (b.raiseError k c).vmismatch = b.vmismatch := rfl
@[simp] theorem Block.raiseError_ovr (k : ErrClass) (c : Word) : (b.raiseError k c).ovr = b.ovr := rfl
@[simp] theorem Block.raiseError_errClass (k : ErrClass) (c : Word) : (b.raiseError k c).errClass = k := rfl
@[simp] theorem Block.raiseError_nread (k : ErrClass) (c : Word) : (b.raiseError k c).nread = b.nread := rfl
@[simp] theorem Block.raiseError_nwrite (k : ErrClass) (c : Word) : (b.raiseError k c).nwrite = b.nwrite := rfl
@[simp] theorem Block.raiseError_errCode (k : ErrClass) (c : Word) : (b.raiseError k c).errCode = c := rfl
@[simp] theorem Block.raiseError_addr (k : ErrClass) (c : Word) : (b.raiseError k c).addr = b.addr := rfl
@[simp] theorem Block.raiseError_target (k : ErrClass) (c : Word) : (b.raiseError k c).target = b.target := rfl
@[simp] theorem Block.raiseError_div (k : ErrClass) (c : Word) : (b.raiseError k c).div = b.div := rfl
@[simp] theorem Block.raiseError_raw (k : ErrClass) (c : Word) : (b.raiseError k c).raw = b.raw := rfl
@[simp] theorem Block.raiseError_cfg (k : ErrClass) (c : Word) : (b.raiseError k c).cfg = b.cfg := rfl
@[simp] theorem Block.raiseError_work (k : ErrClass) (c : Word) : (b.raiseError k c).work = b.work := rfl
@[simp] theorem Block.raiseError_wout (k : ErrClass) (c : Word) : (b.raiseError k c).wout = b.wout := rfl
@[simp] theorem Block.raiseError_rdbk (k : ErrClass) (c : Word) : (b.raiseError k c).rdbk = b.rdbk := rfl
@[simp] theorem Block.raiseError_dmask (k : ErrClass) (c : Word) : (b.raiseError k c).dmask = b.dmask := rfl
@[simp] theorem Block.raiseError_lkp (k : ErrClass) (c : Word) : (b.raiseError k c).lkp = b.lkp := rfl
@[simp] theorem Block.raiseError_dold (k : ErrClass) (c : Word) : (b.raiseError k c).dold = b.dold := rfl
@[simp] theorem Block.raiseError_dnew (k : ErrClass) (c : Word) : (b.raiseError k c).dnew = b.dnew := rfl

end Sys2Proof.Machine
end

