-- ==== Sys2Proof/Laws/Ops.lean ====
section
/-! SUPPORT. What each shared operation of Ops can do: one lemma an operation, cited instead of unfolding it. -/

namespace Sys2Proof.Machine

/-! BUSY (R40). -/

theorem Block.busy_eq_false_iff (b : Block) : b.busy = false ↔ b.phase = .idle := by
  cases h : b.phase <;> simp [Block.busy, h]

theorem Block.busy_eq_true_iff (b : Block) : b.busy = true ↔ b.phase ≠ .idle := by
  cases h : b.phase <;> simp [Block.busy, h]

@[simp] theorem Block.clearForTake_busy (b : Block) : b.clearForTake.busy = b.busy := rfl

/-! Raising an error (R403). -/

/-- After a raise the block is IDLE, whether or not a run was in progress (R405). -/
@[simp] theorem Block.raiseError_phase (b : Block) (k : ErrClass) (c : Word) : (b.raiseError k c).phase = .idle := by
  cases h : b.phase <;> simp [Block.raiseError, Block.busy, h]

/-- A raise outside a run leaves REQ. -/
theorem Block.raiseError_idle (b : Block) (k : ErrClass) (c : Word) (h : b.phase = .idle) :
    b.raiseError k c = { b with err := true, errClass := k, errCode := c, done := false } := by
  simp [Block.raiseError, Block.busy, h]

/-- A raise in a run ends it. -/
theorem Block.raiseError_busy (b : Block) (k : ErrClass) (c : Word) (h : b.busy = true) :
    b.raiseError k c =
      { b with err := true, errClass := k, errCode := c, done := false, phase := .idle, req := none } := by
  simp [Block.raiseError, h]

/-! Taking a command (R200, R201). -/

theorem takeCommand_busy {f : Block → Block} {s : State} (h : s.block.busy = true) :
    takeCommand f s = .next { s with block := s.block.dropWrite } := by simp [takeCommand, h]

theorem takeCommand_idle {f : Block → Block} {s : State} (h : s.block.phase = .idle) :
    takeCommand f s = .next { s with block := f s.block.clearForTake } := by
  simp [takeCommand, (s.block.busy_eq_false_iff).2 h]

/-- A taken or dropped command always answers a next state that differs in the block only. -/
theorem takeCommand_next (f : Block → Block) (s : State) :
    ∃ b, takeCommand f s = .next { s with block := b } ∧
      (s.block.busy = true ∧ b = s.block.dropWrite ∨ s.block.phase = .idle ∧ b = f s.block.clearForTake) := by
  cases h : s.block.busy with
  | true => exact ⟨_, takeCommand_busy h, .inl ⟨rfl, rfl⟩⟩
  | false =>
    have h' := (s.block.busy_eq_false_iff).1 h
    exact ⟨_, takeCommand_idle h', .inr ⟨h', rfl⟩⟩

theorem pureCommand_idle {f : Block → Block} {s : State} (h : s.block.phase = .idle) :
    pureCommand f s = .next { s with block := (f s.block.clearForTake).setDone } := takeCommand_idle h

theorem takeIllegal_idle {s : State} (h : s.block.phase = .idle) :
    takeIllegal s = .next { s with block := { s.block with
      done := false, ovr := false, err := true, errClass := .illegalCommand, errCode := 0 } } := by
  rw [takeIllegal, takeCommand_idle h, Block.raiseError_idle _ _ _ (by simpa using h)]
  rfl

/-! The bytes of the EEPROM space. -/

theorem eepromLookup_write_same (m : Memory) (a : Nat) (v : Byte) :
    eepromLookup (eepromWrite m a v) a = some v := by
  induction m with
  | nil => simp [eepromWrite, eepromLookup]
  | cons c m ih =>
    obtain ⟨k, b⟩ := c
    by_cases h1 : a < k
    · simp [eepromWrite, eepromLookup, h1]
    · by_cases h2 : a = k
      · simp [eepromWrite, eepromLookup, h2]
      · simp [eepromWrite, eepromLookup, h1, h2, ih]

theorem eepromLookup_write_other (m : Memory) {a k : Nat} (v : Byte) (h : k ≠ a) :
    eepromLookup (eepromWrite m a v) k = eepromLookup m k := by
  induction m with
  | nil => simp [eepromWrite, eepromLookup, h]
  | cons c m ih =>
    obtain ⟨j, b⟩ := c
    by_cases h1 : a < j
    · simp [eepromWrite, eepromLookup, h1, h]
    · by_cases h2 : a = j
      · subst h2; simp [eepromWrite, eepromLookup, h]
      · simp [eepromWrite, eepromLookup, h1, h2, ih]

/-- A read after a write of the same key gives the byte written. -/
@[simp] theorem eepromRead_write_same (m : Memory) (a : Nat) (v : Byte) :
    eepromRead (eepromWrite m a v) a = v := by simp [eepromRead, eepromLookup_write_same]

/-- A write leaves every other key alone. -/
theorem eepromRead_write_other (m : Memory) {a k : Nat} (v : Byte) (h : k ≠ a) :
    eepromRead (eepromWrite m a v) k = eepromRead m k := by simp [eepromRead, eepromLookup_write_other m v h]

/-- Writing bytes leaves every key alone but those of the bytes. -/
theorem eepromRead_writeBytes_other (bs : List Byte) (m : Memory) (addr : SlaveAddr) (off : BitVec 8) (k : Nat)
    (h : k ∉ eepromKeys addr off bs.length) : eepromRead (eepromWriteBytes m addr off bs) k = eepromRead m k := by
  induction bs generalizing m off with
  | nil => rfl
  | cons b bs ih =>
    simp only [List.length_cons, eepromKeys, List.mem_cons, not_or] at h
    rw [eepromWriteBytes, ih _ _ h.2, eepromRead_write_other _ _ h.1]

theorem eepromKey_lt (addr : SlaveAddr) (off : BitVec 8) : eepromKey addr off < 0x8000 := by
  have := addr.isLt; have := off.isLt
  simp only [eepromKey]; omega

/-- The keys of different offsets differ. -/
theorem eepromKey_injective {addr : SlaveAddr} {off off' : BitVec 8} (h : eepromKey addr off = eepromKey addr off') :
    off = off' := by
  simp only [eepromKey] at h
  exact BitVec.eq_of_toNat_eq (by omega)

theorem eepromRisingFrom_mono {lo lo' : Nat} (h : lo' ≤ lo) (m : Memory)
    (hm : eepromRisingFrom lo m = true) : eepromRisingFrom lo' m = true := by
  cases m with
  | nil => rfl
  | cons c m =>
    obtain ⟨k, b⟩ := c
    simp only [eepromRisingFrom, Bool.and_eq_true, decide_eq_true_eq] at hm ⊢
    exact ⟨⟨by omega, hm.1.2⟩, hm.2⟩

theorem eepromRisingFrom_write {lo a : Nat} (m : Memory) (v : Byte) (hm : eepromRisingFrom lo m = true)
    (hlo : lo ≤ a) (ha : a < 0x8000) : eepromRisingFrom lo (eepromWrite m a v) = true := by
  induction m generalizing lo with
  | nil => simp [eepromWrite, eepromRisingFrom, hlo, ha]
  | cons c m ih =>
    obtain ⟨k, b⟩ := c
    simp only [eepromRisingFrom, Bool.and_eq_true, decide_eq_true_eq] at hm
    by_cases h1 : a < k
    · simp [eepromWrite, eepromRisingFrom, h1, hlo, ha, hm.1.2, hm.2]
    · by_cases h2 : a = k
      · subst h2; simp [eepromWrite, eepromRisingFrom, hlo, ha, hm.2]
      · simp [eepromWrite, eepromRisingFrom, h1, h2, hm.1, ih hm.2 (by omega)]

/-- A write of a key of the EEPROM space keeps the canonical form. -/
theorem Memory.wf_write (m : Memory) (addr : SlaveAddr) (off : BitVec 8) (v : Byte)
    (hm : Memory.wf m = true) : Memory.wf (eepromWrite m (eepromKey addr off) v) = true :=
  eepromRisingFrom_write m v hm (Nat.zero_le _) (eepromKey_lt addr off)

/-- Writing bytes keeps the canonical form. -/
theorem Memory.wf_writeBytes (bs : List Byte) (m : Memory) (addr : SlaveAddr) (off : BitVec 8)
    (hm : Memory.wf m = true) : Memory.wf (eepromWriteBytes m addr off bs) = true := by
  induction bs generalizing m off with
  | nil => exact hm
  | cons b bs ih => exact ih _ _ (Memory.wf_write m addr off b hm)

/-- The reset machine lists no byte. -/
theorem Memory.wf_reset : Memory.wf State.reset.transport.eeprom = true := rfl

end Sys2Proof.Machine
end

