-- ==== Sys2Proof/Laws/Exec.lean ====
section
/-! SUPPORT. What running a command, writing a register and a host turn can do, each said once. -/

namespace Sys2Proof.Machine

/-- The effect of each command on the block once it is taken and the take's clearing is done. -/
def commandEffect : Instr → Block → Block
  | .nop, b => b.setDone
  | .decode, b => { b with cfg := decodeRcw b.raw }.setDone
  | .encodeCfg, b => { b with wout := encodeRcw b.cfg }.setDone
  | .encodeWork, b => { b with wout := encodeRcw b.work }.setDone
  | .plan, b => (b.planFrom b.cfg).setDone
  | .lookupPhy c, b => { b with lkp := lookupWord .phy c }.setDone
  | .lookupBoot c, b => { b with lkp := lookupWord .boot c }.setDone
  | .lookupSrc c, b => { b with lkp := lookupWord .src c }.setDone
  | .lookupXosc c, b => { b with lkp := lookupWord .xosc c }.setDone
  | .lookupPll c, b => { b with lkp := lookupWord .pll c }.setDone
  | .lookupWait c, b => { b with lkp := lookupWord .wait c }.setDone
  | .lookupSpeed c, b => { b with lkp := lookupWord .speed c }.setDone
  | .update, b => b.startRun

/-- Every command goes through the one take (R200 to R203). -/
theorem exec_eq_takeCommand (i : Instr) (s : State) : exec i s = takeCommand (commandEffect i) s := by
  cases i <;> rfl

/-- A command taken while no run is in progress has its effect after the clearing. -/
theorem exec_idle (i : Instr) {s : State} (h : s.block.phase = .idle) :
    exec i s = .next { s with block := commandEffect i s.block.clearForTake } := by
  rw [exec_eq_takeCommand, takeCommand_idle h]

/-- A command while a run is in progress is dropped. -/
theorem exec_busy (i : Instr) {s : State} (h : s.block.busy = true) :
    exec i s = .next { s with block := s.block.dropWrite } := by rw [exec_eq_takeCommand, takeCommand_busy h]

/-- What a host write to a register of its own effect does once it is taken. -/
theorem writeUnlessBusy_idle {f : Block → Block} {s : State} (h : s.block.phase = .idle) :
    writeUnlessBusy f s = .next { s with block := f s.block } := by
  simp [writeUnlessBusy, (s.block.busy_eq_false_iff).2 h]

theorem writeUnlessBusy_busy {f : Block → Block} {s : State} (h : s.block.busy = true) :
    writeUnlessBusy f s = .next { s with block := s.block.dropWrite } := by simp [writeUnlessBusy, h]

/-- A CMD write of any word goes through the one take. -/
theorem writeCmd_eq_takeCommand (c : Word) (s : State) :
    writeCmd c s = takeCommand
      (match decode c with
        | .ok i => commandEffect i
        | .error _ => fun b => b.raiseError .illegalCommand 0) s := by
  unfold writeCmd
  cases decode c with
  | ok i => exact exec_eq_takeCommand i s
  | error e => rfl

/-- The changes a host write can make to the block (R112): none, OVR while a run is in progress, a command's effect, or
the effect of the register written. -/
inductive HostWriteEffect (b : Block) : Block → Prop where
  | none : HostWriteEffect b b
  | dropped : b.busy = true → HostWriteEffect b b.dropWrite
  | command (i : Instr) : b.phase = .idle → HostWriteEffect b (commandEffect i b.clearForTake)
  | illegal : b.phase = .idle → HostWriteEffect b (b.clearForTake.raiseError .illegalCommand 0)
  | addr (v : Word) : b.phase = .idle → HostWriteEffect b (b.writeAddr v)
  | target (v : Word) : b.phase = .idle → HostWriteEffect b (b.writeTarget v)
  | div (v : Word) : b.phase = .idle → HostWriteEffect b { b with div := v }
  | raw (v : Word) : b.phase = .idle → HostWriteEffect b { b with raw := v }
  | cfg0 (v : Word) : b.phase = .idle → HostWriteEffect b { b with cfg := writeView0 b.cfg v }
  | cfg1 (v : Word) : b.phase = .idle → HostWriteEffect b { b with cfg := writeView1 b.cfg v }

theorem takeCommand_effect (f : Block → Block) (s : State)
    (h : s.block.phase = .idle → HostWriteEffect s.block (f s.block.clearForTake)) :
    ∃ b, takeCommand f s = .next { s with block := b } ∧ HostWriteEffect s.block b := by
  obtain ⟨b, e, ⟨hb, rfl⟩ | ⟨hi, rfl⟩⟩ := takeCommand_next f s
  · exact ⟨_, e, .dropped hb⟩
  · exact ⟨_, e, h hi⟩

theorem writeUnlessBusy_effect (f : Block → Block) (s : State)
    (h : s.block.phase = .idle → HostWriteEffect s.block (f s.block)) :
    ∃ b, writeUnlessBusy f s = .next { s with block := b } ∧ HostWriteEffect s.block b := by
  cases hb : s.block.busy with
  | true => exact ⟨_, writeUnlessBusy_busy hb, .dropped hb⟩
  | false =>
    have hi := (s.block.busy_eq_false_iff).1 hb
    exact ⟨_, writeUnlessBusy_idle hi, h hi⟩

/-- A host write always answers a next state; it changes the block only, in one of the listed ways (R112). -/
theorem hostWrite_effect (off : BitVec 8) (v : Word) (s : State) :
    ∃ b, hostWrite off v s = .next { s with block := b } ∧ HostWriteEffect s.block b := by
  unfold hostWrite
  cases regAt off with
  | none => exact ⟨_, rfl, .none⟩
  | some r =>
    cases r with
    | cmd =>
      simp only [writeReg, writeCmd_eq_takeCommand]
      cases decode v with
      | ok i => exact takeCommand_effect _ s (fun h => .command i h)
      | error e => exact takeCommand_effect _ s (fun h => .illegal h)
    | addr => exact writeUnlessBusy_effect (fun b => b.writeAddr v) s (fun h => .addr v h)
    | target => exact writeUnlessBusy_effect (fun b => b.writeTarget v) s (fun h => .target v h)
    | div => exact writeUnlessBusy_effect (fun b => { b with div := v }) s (fun h => .div v h)
    | raw => exact writeUnlessBusy_effect (fun b => { b with raw := v }) s (fun h => .raw v h)
    | cfg0 => exact writeUnlessBusy_effect (fun b => { b with cfg := writeView0 b.cfg v }) s (fun h => .cfg0 v h)
    | cfg1 => exact writeUnlessBusy_effect (fun b => { b with cfg := writeView1 b.cfg v }) s (fun h => .cfg1 v h)
    | _ => exact ⟨_, rfl, .none⟩

/-- What a host turn can do when it answers a next state: the block changes by a host write or not at all, only the
host's own program and last value change beside it, and neither the transport nor the order of turns does. -/
theorem hostTurn_cases {s t : State} (h : hostTurn s = .next t) :
    t.transport = s.transport ∧ t.turns = s.turns ∧
      (t.block = s.block ∨
        ∃ off v ops, s.host.program = .write off 32 v :: ops ∧ off.toNat % 4 = 0 ∧
          hostWrite off v { s with host := { s.host with program := ops } } = .next t ∧
          HostWriteEffect s.block t.block) := by
  unfold hostTurn at h
  split at h
  · cases h; exact ⟨rfl, rfl, .inl rfl⟩
  · rename_i op ops hp
    cases op with
    | read off width =>
      simp only [hostOp, aligned32] at h
      split at h
      · cases h
      · split at h
        · cases h
        · cases h; exact ⟨rfl, rfl, .inl rfl⟩
    | waitIdle =>
      simp only [hostOp, hostRead] at h
      split at h <;> (cases h; exact ⟨rfl, rfl, .inl rfl⟩)
    | write off width v =>
      simp only [hostOp, aligned32] at h
      split at h
      · cases h
      · rename_i ha
        split at h
        · cases h
        · rename_i hw
          have hw : width = 32 := by simpa using hw
          subst hw
          obtain ⟨b, e, he⟩ := hostWrite_effect off v { s with host := { s.host with program := ops } }
          have e' := e
          rw [h] at e'
          cases e'
          exact ⟨rfl, rfl, .inr ⟨off, v, ops, hp, by simpa using ha, h, he⟩⟩

/-- A host turn never ends in a fault. -/
theorem hostTurn_no_fault (s : State) (r : Fault) : hostTurn s ≠ .fault r := by
  intro h
  unfold hostTurn at h
  split at h
  · cases h
  · rename_i op ops hp
    cases op with
    | read off width =>
      simp only [hostOp, aligned32, hostRead] at h
      split at h
      · cases h
      · split at h <;> cases h
    | waitIdle => simp only [hostOp, hostRead] at h; cases h
    | write off width v =>
      simp only [hostOp, aligned32] at h
      obtain ⟨b, e, -⟩ := hostWrite_effect off v { s with host := { s.host with program := ops } }
      rw [e] at h
      split at h
      · cases h
      · split at h <;> cases h

/-- What an answer can do when it answers a next state: some request was outstanding and admits it, and the block made
its transition. -/
theorem answer_next_iff {p : Response} {s t : State} :
    answer p s = .next t ↔
      ∃ r b, s.block.req = some r ∧ r.admits p = true ∧ s.block.onResponse p = some b ∧
        t = { s with block := b, transport := s.transport.settle r p } := by
  constructor
  · intro h
    unfold answer at h
    split at h
    · cases h
    · rename_i r hr
      split at h
      · rename_i ha
        split at h
        · rename_i b ho
          cases h
          exact ⟨r, b, hr, ha, ho, rfl⟩
        · cases h
      · cases h
  · rintro ⟨r, b, hr, ha, ho, rfl⟩
    simp only [answer, hr, ha, ho, if_true]

/-- An outstanding request, an admitted response and a transition give a next state. -/
theorem answer_of {p : Response} {s : State} {r : Request} {b : Block} (hr : s.block.req = some r)
    (ha : r.admits p = true) (ho : s.block.onResponse p = some b) :
    answer p s = .next { s with block := b, transport := s.transport.settle r p } :=
  answer_next_iff.2 ⟨r, b, hr, ha, ho, rfl⟩

/-- A step that answers the outstanding request. -/
theorem step_answer_of (s : State) (ts : List Turn) (p : Response) {r : Request} {b : Block}
    (hr : s.block.req = some r) (ha : r.admits p = true) (ho : s.block.onResponse p = some b) :
    step { s with turns := .answer p :: ts } =
      .next { s with turns := ts, block := b, transport := s.transport.settle r p } := by
  simp only [step, takeTurn]
  exact answer_of (s := { s with turns := ts }) hr ha ho

end Sys2Proof.Machine
end

