-- ==== Sys2Proof/Laws/HostPort.lean ====
section
/-! SUPPORT. The register map offset by offset: what a host reads and what a host write calls (10_state.md R35). -/

namespace Sys2Proof.Machine

/-- The register map is a bijection: each register is found at its own offset (R35). -/
@[simp] theorem regAt_offset (r : Reg) : regAt r.offset = some r := by
  cases r with
  | dold f => cases f <;> rfl
  | dnew f => cases f <;> rfl
  | _ => rfl

/-- The register found at an offset has that offset. -/
theorem offset_of_regAt {off : BitVec 8} {r : Reg} (h : regAt off = some r) : off = r.offset := by
  have h' := List.find?_some h
  rw [beq_iff_eq] at h'
  exact h'.symm

@[simp] theorem regAt_cmd : regAt 0x00 = some .cmd := regAt_offset .cmd
@[simp] theorem regAt_status : regAt 0x04 = some .status := regAt_offset .status
@[simp] theorem regAt_errcode : regAt 0x08 = some .errcode := regAt_offset .errcode
@[simp] theorem regAt_addr : regAt 0x0C = some .addr := regAt_offset .addr
@[simp] theorem regAt_target : regAt 0x10 = some .target := regAt_offset .target
@[simp] theorem regAt_div : regAt 0x14 = some .div := regAt_offset .div
@[simp] theorem regAt_raw : regAt 0x18 = some .raw := regAt_offset .raw
@[simp] theorem regAt_cfg0 : regAt 0x1C = some .cfg0 := regAt_offset .cfg0
@[simp] theorem regAt_cfg1 : regAt 0x20 = some .cfg1 := regAt_offset .cfg1
@[simp] theorem regAt_work0 : regAt 0x24 = some .work0 := regAt_offset .work0
@[simp] theorem regAt_work1 : regAt 0x28 = some .work1 := regAt_offset .work1
@[simp] theorem regAt_wout : regAt 0x2C = some .wout := regAt_offset .wout
@[simp] theorem regAt_rdbk : regAt 0x30 = some .rdbk := regAt_offset .rdbk
@[simp] theorem regAt_dmask : regAt 0x34 = some .dmask := regAt_offset .dmask
@[simp] theorem regAt_lkp : regAt 0x38 = some .lkp := regAt_offset .lkp

@[simp] theorem Block.hostValue_cmd (b : Block) : b.hostValue 0x00 = 0 := by
  simp only [Block.hostValue, regAt_cmd, Block.readReg]
@[simp] theorem Block.hostValue_status (b : Block) : b.hostValue 0x04 = b.statusWord := by
  simp only [Block.hostValue, regAt_status, Block.readReg]
@[simp] theorem Block.hostValue_errcode (b : Block) : b.hostValue 0x08 = b.errCode := by
  simp only [Block.hostValue, regAt_errcode, Block.readReg]
@[simp] theorem Block.hostValue_addr (b : Block) : b.hostValue 0x0C = b.addr.setWidth 32 := by
  simp only [Block.hostValue, regAt_addr, Block.readReg]
@[simp] theorem Block.hostValue_target (b : Block) : b.hostValue 0x10 = b.target.setWidth 32 := by
  simp only [Block.hostValue, regAt_target, Block.readReg]
@[simp] theorem Block.hostValue_div (b : Block) : b.hostValue 0x14 = b.div := by
  simp only [Block.hostValue, regAt_div, Block.readReg]
@[simp] theorem Block.hostValue_raw (b : Block) : b.hostValue 0x18 = b.raw := by
  simp only [Block.hostValue, regAt_raw, Block.readReg]
@[simp] theorem Block.hostValue_cfg0 (b : Block) : b.hostValue 0x1C = view0 b.cfg := by
  simp only [Block.hostValue, regAt_cfg0, Block.readReg]
@[simp] theorem Block.hostValue_cfg1 (b : Block) : b.hostValue 0x20 = view1 b.cfg := by
  simp only [Block.hostValue, regAt_cfg1, Block.readReg]
@[simp] theorem Block.hostValue_work0 (b : Block) : b.hostValue 0x24 = view0 b.work := by
  simp only [Block.hostValue, regAt_work0, Block.readReg]
@[simp] theorem Block.hostValue_work1 (b : Block) : b.hostValue 0x28 = view1 b.work := by
  simp only [Block.hostValue, regAt_work1, Block.readReg]
@[simp] theorem Block.hostValue_wout (b : Block) : b.hostValue 0x2C = b.wout := by
  simp only [Block.hostValue, regAt_wout, Block.readReg]
@[simp] theorem Block.hostValue_rdbk (b : Block) : b.hostValue 0x30 = b.rdbk := by
  simp only [Block.hostValue, regAt_rdbk, Block.readReg]
@[simp] theorem Block.hostValue_dmask (b : Block) : b.hostValue 0x34 = b.dmask := by
  simp only [Block.hostValue, regAt_dmask, Block.readReg]
@[simp] theorem Block.hostValue_lkp (b : Block) : b.hostValue 0x38 = b.lkp := by
  simp only [Block.hostValue, regAt_lkp, Block.readReg]

theorem hostWrite_cmd (v : Word) (s : State) : hostWrite 0x00 v s = writeCmd v s := by
  simp only [hostWrite, regAt_cmd, writeReg]

theorem hostWrite_addr (v : Word) (s : State) :
    hostWrite 0x0C v s = writeUnlessBusy (fun b => b.writeAddr v) s := by
  simp only [hostWrite, regAt_addr, writeReg]

theorem hostWrite_target (v : Word) (s : State) :
    hostWrite 0x10 v s = writeUnlessBusy (fun b => b.writeTarget v) s := by
  simp only [hostWrite, regAt_target, writeReg]

theorem hostWrite_div (v : Word) (s : State) :
    hostWrite 0x14 v s = writeUnlessBusy (fun b => { b with div := v }) s := by
  simp only [hostWrite, regAt_div, writeReg]

theorem hostWrite_raw (v : Word) (s : State) :
    hostWrite 0x18 v s = writeUnlessBusy (fun b => { b with raw := v }) s := by
  simp only [hostWrite, regAt_raw, writeReg]

theorem hostWrite_cfg0 (v : Word) (s : State) :
    hostWrite 0x1C v s = writeUnlessBusy (fun b => { b with cfg := writeView0 b.cfg v }) s := by
  simp only [hostWrite, regAt_cfg0, writeReg]

theorem hostWrite_cfg1 (v : Word) (s : State) :
    hostWrite 0x20 v s = writeUnlessBusy (fun b => { b with cfg := writeView1 b.cfg v }) s := by
  simp only [hostWrite, regAt_cfg1, writeReg]

end Sys2Proof.Machine
end

