-- ==== Sys2Proof/Laws/PerInstr.lean ====
section
/-! SUPPORT. One family of statements about every command as syntax: `EncodingMatchesARow`, one lemma for each
constructor of Instr. -/

namespace Sys2Proof.Laws

/-- The encoding of a well-formed command matches some row of the opcode map, and bits 31:12 of it are 0 (R168,
R170). -/
def EncodingMatchesARow.Statement (i : Instr) : Prop :=
  i.wf = true → (opcodeRows.any fun r => r.accepts (encode i)) = true ∧ (encode i).extractLsb' 12 20 = 0

theorem EncodingMatchesARow.nop : EncodingMatchesARow.Statement .nop := by unfold EncodingMatchesARow.Statement; decide

theorem EncodingMatchesARow.decode : EncodingMatchesARow.Statement .decode := by
  unfold EncodingMatchesARow.Statement; decide

theorem EncodingMatchesARow.encodeCfg : EncodingMatchesARow.Statement .encodeCfg := by
  unfold EncodingMatchesARow.Statement; decide

theorem EncodingMatchesARow.encodeWork : EncodingMatchesARow.Statement .encodeWork := by
  unfold EncodingMatchesARow.Statement; decide

theorem EncodingMatchesARow.plan : EncodingMatchesARow.Statement .plan := by
  unfold EncodingMatchesARow.Statement; decide

theorem EncodingMatchesARow.lookupPhy (code : BitVec 4) : EncodingMatchesARow.Statement (.lookupPhy code) := by
  unfold EncodingMatchesARow.Statement; revert code; decide

theorem EncodingMatchesARow.lookupBoot (code : BitVec 4) : EncodingMatchesARow.Statement (.lookupBoot code) := by
  unfold EncodingMatchesARow.Statement; revert code; decide

theorem EncodingMatchesARow.lookupSrc (code : BitVec 4) : EncodingMatchesARow.Statement (.lookupSrc code) := by
  unfold EncodingMatchesARow.Statement; revert code; decide

theorem EncodingMatchesARow.lookupXosc (code : BitVec 4) : EncodingMatchesARow.Statement (.lookupXosc code) := by
  unfold EncodingMatchesARow.Statement; revert code; decide

theorem EncodingMatchesARow.lookupPll (code : BitVec 4) : EncodingMatchesARow.Statement (.lookupPll code) := by
  unfold EncodingMatchesARow.Statement; revert code; decide

theorem EncodingMatchesARow.lookupWait (code : BitVec 4) : EncodingMatchesARow.Statement (.lookupWait code) := by
  unfold EncodingMatchesARow.Statement; revert code; decide

theorem EncodingMatchesARow.lookupSpeed (code : BitVec 4) : EncodingMatchesARow.Statement (.lookupSpeed code) := by
  unfold EncodingMatchesARow.Statement; revert code; decide

theorem EncodingMatchesARow.update : EncodingMatchesARow.Statement .update := by
  unfold EncodingMatchesARow.Statement; decide

end Sys2Proof.Laws
end

