-- ==== Sys2Proof/Laws/Policy.lean ====
section
/-! SUPPORT. The three steps of the update policy and the delta, each said once. -/

namespace Sys2Proof.Machine

/-- Step 1 always leaves the source at I2C (R291). -/
theorem planSource_eq (c : Cfg) : planSource c = { c with src := 1 } := by
  unfold planSource
  split
  · rfl
  · rename_i h
    cases c with
    | mk a b s d e p => simp only [ne_eq, Decidable.not_not] at h; subst h; rfl

/-- Step 3 on a well-formed SD configuration leaves speed High and the 50 ms wait (R291). -/
theorem planSd_of_sd {w : Cfg} (h : w.wf = true) (hs : w.boot = 2) : planSd w = { w with pay := .sd 7 1 } := by
  have hv := (Cfg.wf_iff w).1 h
  rw [hs] at hv
  cases w with
  | mk a b c d e p =>
    simp only at hs
    subst hs
    cases p with
    | sd x y =>
      have h1 : (if x ≠ 7 then (7 : BitVec 3) else x) = 7 := by by_cases hx : x = 7 <;> simp [hx]
      have h2 : (if y ≠ 1 then (1 : BitVec 1) else y) = 1 := by by_cases hy : y = 1 <;> simp [hy]
      simp only [planSd, show variantOf 2 = .sd from rfl, if_true, h1, h2]
    | qspi q => simp [Payload.variant, variantOf] at hv
    | mmc x y => simp [Payload.variant, variantOf] at hv
    | rsvd => simp [Payload.variant, variantOf] at hv

/-- The mask is empty exactly when the nine pairs of registers are equal (R293). -/
theorem deltaMask_eq_zero_iff (o n : FieldRegs) : deltaMask o n = 0 ↔ ∀ f, o.get f = n.get f := by
  constructor
  · intro h f
    have := deltaMask_getLsbD o n f
    rw [h] at this
    by_contra hne
    rw [show (o.get f != n.get f) = true by simp [hne]] at this
    simp at this
  · intro h
    simp only [deltaMask, h, bne_self_eq_false]
    rfl

end Sys2Proof.Machine
end

