-- ==== Sys2Proof/Laws/Update.lean ====
section
/-! SUPPORT. What a response, a turn and a step can do, each said once, and how the EEPROM reads after them. -/

namespace Sys2Proof.Machine

/-- A `Data` answer of another length than 4 is a short read (R325). -/
theorem Block.onData_short (b : Block) (f : Word → Block) (bs : List Byte) (h : bs.length ≠ 4) :
    b.onData f bs = b.raiseShortRead bs := by
  unfold Block.onData
  split
  · simp at h
  · rfl

/-- A `Data` answer is a short read, or four bytes taken as one word (R325, R326, R331). -/
theorem Block.onData_cases (b : Block) (f : Word → Block) (bs : List Byte) :
    b.onData f bs = b.raiseShortRead bs ∨
      ∃ b0 b1 b2 b3, bs = [b0, b1, b2, b3] ∧ b.onData f bs = f (wordLE b0 b1 b2 b3) := by
  unfold Block.onData
  split
  · exact .inr ⟨_, _, _, _, rfl, rfl⟩
  · exact .inl rfl

/-- The block's reactions to a response: every transition of the state machine and no other (R321 to R331). -/
inductive ResponseEffect (b : Block) : Response → Block → Prop where
  | queryFailed (c : Word) : b.phase = .query → ResponseEffect b (.err c) (b.raiseError .busStateQueryFailed c)
  | queryIdle : b.phase = .query → ResponseEffect b .idle b.enterConfig
  | queryBusy : b.phase = .query → ResponseEffect b .busy { b with phase := .cancel, req := some .cancel }
  | cancelled : b.phase = .cancel → ResponseEffect b .ack b.enterConfig
  | configFailed (c : Word) : b.phase = .config → ResponseEffect b (.err c) (b.raiseError .busConfigurationFailed c)
  | configured : b.phase = .config →
      ResponseEffect b .ok { b with phase := .read, nread := 1, req := some b.readRequest }
  | readFailed (c : Word) : b.phase = .read ∨ b.phase = .readback →
      ResponseEffect b (.err c) (b.raiseError .txnReadFailed c)
  | shortRead (bs : List Byte) : b.phase = .read ∨ b.phase = .readback →
      ResponseEffect b (.data bs) (b.raiseShortRead bs)
  | wordRead (b0 b1 b2 b3 : Byte) : b.phase = .read →
      ResponseEffect b (.data [b0, b1, b2, b3]) (b.onWordRead (wordLE b0 b1 b2 b3))
  | writeFailed (c : Word) : b.phase = .write → ResponseEffect b (.err c) (b.raiseError .txnWriteFailed c)
  | written : b.phase = .write →
      ResponseEffect b .ok { b with wrote := true, phase := .readback, nread := 2, req := some b.readRequest }
  | wordReadBack (b0 b1 b2 b3 : Byte) : b.phase = .readback →
      ResponseEffect b (.data [b0, b1, b2, b3]) (b.onWordReadBack (wordLE b0 b1 b2 b3))

/-- A response the block has a transition for has one of the listed effects. -/
theorem Block.onResponse_effect {b b' : Block} {p : Response} (h : b.onResponse p = some b') :
    ResponseEffect b p b' := by
  unfold Block.onResponse at h
  cases hp : b.phase <;> rw [hp] at h
  case idle => cases h
  case query =>
    cases p <;> cases h
    · exact .queryIdle hp
    · exact .queryBusy hp
    · exact .queryFailed _ hp
  case cancel =>
    cases p <;> cases h
    exact .cancelled hp
  case config =>
    cases p <;> cases h
    · exact .configured hp
    · exact .configFailed _ hp
  case read =>
    cases p <;> cases h
    · rename_i bs
      rcases b.onData_cases b.onWordRead bs with e | ⟨b0, b1, b2, b3, rfl, e⟩ <;> rw [e]
      · exact .shortRead _ (.inl hp)
      · exact .wordRead _ _ _ _ hp
    · exact .readFailed _ (.inl hp)
  case write =>
    cases p <;> cases h
    · exact .written hp
    · exact .writeFailed _ hp
  case readback =>
    cases p <;> cases h
    · rename_i bs
      rcases b.onData_cases b.onWordReadBack bs with e | ⟨b0, b1, b2, b3, rfl, e⟩ <;> rw [e]
      · exact .shortRead _ (.inr hp)
      · exact .wordReadBack _ _ _ _ hp
    · exact .readFailed _ (.inr hp)

/-- The word read, when the plan changes a field: everything the step writes (R326, R327). -/
theorem Block.onWordRead_changed (b : Block) (r : Word)
    (h : (deltaMask (FieldRegs.ofCfg (decodeRcw r)) (FieldRegs.ofCfg (plan (decodeRcw r) b.target)) != 0) = true) :
    b.onWordRead r = { b with
      raw := r, cfg := decodeRcw r, work := plan (decodeRcw r) b.target
      dold := FieldRegs.ofCfg (decodeRcw r), dnew := FieldRegs.ofCfg (plan (decodeRcw r) b.target)
      dmask := deltaMask (FieldRegs.ofCfg (decodeRcw r)) (FieldRegs.ofCfg (plan (decodeRcw r) b.target))
      changed := true, wout := encodeRcw (plan (decodeRcw r) b.target), phase := .write, nwrite := 1
      req := some (.write b.addr 0 (bytesLE (encodeRcw (plan (decodeRcw r) b.target)))) } := by
  simp only [Block.onWordRead, Block.planFrom, h, if_true, Block.writeRequest]

/-- The word read, when the plan changes no field: everything the step writes (R326, R327, R328). -/
theorem Block.onWordRead_unchanged (b : Block) (r : Word)
    (h : deltaMask (FieldRegs.ofCfg (decodeRcw r)) (FieldRegs.ofCfg (plan (decodeRcw r) b.target)) = 0) :
    b.onWordRead r = { b with
      raw := r, cfg := decodeRcw r, work := plan (decodeRcw r) b.target
      dold := FieldRegs.ofCfg (decodeRcw r), dnew := FieldRegs.ofCfg (plan (decodeRcw r) b.target), dmask := 0
      changed := false, phase := .idle, req := none, done := true } := by
  simp only [Block.onWordRead, Block.planFrom, h, bne_self_eq_false, Block.finish]
  rfl

/-! Turns and steps. -/

/-- A step that answers a next state took the first turn, or there was none and nothing moved. -/
theorem step_cases {s t : State} (h : step s = .next t) :
    (s.turns = [] ∧ t = s) ∨ ∃ u ts, s.turns = u :: ts ∧ takeTurn u { s with turns := ts } = .next t := by
  unfold step at h
  split at h
  · cases h; exact .inl ⟨by assumption, rfl⟩
  · exact .inr ⟨_, _, by assumption, h⟩

/-- The environment of R124 answers the outstanding request, having spent one draw. -/
theorem environmentAnswer_cases {s t : State} (h : environmentAnswer s = .next t) :
    ∃ r, s.block.req = some r ∧
      answer (s.transport.reply r) { s with transport := { s.transport with draws := s.transport.draws + 1 } } =
        .next t := by
  unfold environmentAnswer at h
  split at h
  · cases h
  · exact ⟨_, by assumption, h⟩

/-- A late response takes the abandoned request it answers off the list and changes nothing else (R121). -/
theorem lateAnswer_next_iff {i : Nat} {p : Response} {s t : State} :
    lateAnswer i p s = .next t ↔ ∃ r, s.transport.abandoned[i]? = some r ∧ r.admits p = true ∧
      t = { s with transport := { s.transport with abandoned := s.transport.abandoned.eraseIdx i } } := by
  unfold lateAnswer
  constructor
  · intro h
    split at h
    · cases h
    · split at h
      · cases h; exact ⟨_, by assumption, by assumption, rfl⟩
      · cases h
  · rintro ⟨r, hr, ha, rfl⟩
    simp [hr, ha]

/-- A late response changes only the list of abandoned requests (R121). -/
theorem lateAnswer_cases {i : Nat} {p : Response} {s t : State} (h : lateAnswer i p s = .next t) :
    ∃ rs, t = { s with transport := { s.transport with abandoned := rs } } := by
  obtain ⟨_, -, -, rfl⟩ := lateAnswer_next_iff.1 h
  exact ⟨_, rfl⟩

/-- A reset leaves the request it abandons at the end of the list (R452). -/
theorem Transport.abandon_abandoned (t : Transport) (r : Request) :
    (t.abandon (some r)).abandoned = t.abandoned ++ [r] := by cases r <;> rfl

/-! The EEPROM. -/

/-- Four bytes written at offset 0 of a slave are read back (R123). -/
theorem eepromReadBytes_writeBytes (m : Memory) (a : SlaveAddr) (w : Word) :
    eepromReadBytes (eepromWriteBytes m a 0 (bytesLE w)) a 0 4 = bytesLE w := by
  have n : ∀ x y : BitVec 8, x ≠ y → eepromKey a x ≠ eepromKey a y := fun _ _ h e => h (eepromKey_injective e)
  simp only [eepromReadBytes, eepromWriteBytes, bytesLE, List.cons.injEq, and_true]
  refine ⟨?_, ?_, ?_, ?_⟩
  · rw [eepromRead_write_other _ _ (n _ _ (by decide)), eepromRead_write_other _ _ (n _ _ (by decide)),
      eepromRead_write_other _ _ (n _ _ (by decide)), eepromRead_write_same]
  · rw [eepromRead_write_other _ _ (n _ _ (by decide)), eepromRead_write_other _ _ (n _ _ (by decide)),
      eepromRead_write_same]
  · rw [eepromRead_write_other _ _ (n _ _ (by decide)), eepromRead_write_same]
  · rw [eepromRead_write_same]

/-- A response to a request other than a Write leaves every EEPROM byte (R115). -/
theorem Transport.settle_eeprom (t : Transport) (r : Request) (p : Response) (h : ∀ a o bs, r ≠ .write a o bs) :
    (t.settle r p).eeprom = t.eeprom := by
  cases r with
  | write a o bs => exact absurd rfl (h a o bs)
  | _ => cases p <;> rfl

/-- What a response tells of the world keeps the canonical form of the recorded bytes. -/
theorem Memory.wf_settle (t : Transport) (r : Request) (p : Response) (h : Memory.wf t.eeprom = true) :
    Memory.wf (t.settle r p).eeprom = true := by
  cases r with
  | write a o bs => cases p <;> first | exact h | exact Memory.wf_writeBytes _ _ _ _ h
  | _ => cases p <;> exact h

/-- A reset changes only the bytes an abandoned Write was storing to (R452). -/
theorem Transport.abandon_read (t : Transport) (q : Option Request) (a : Nat)
    (h : ∀ addr off bytes, q = some (.write addr off bytes) → a ∉ eepromKeys addr off bytes.length) :
    eepromRead (t.abandon q).eeprom a = eepromRead t.eeprom a := by
  cases q with
  | none => rfl
  | some r =>
    cases r with
    | write addr off bytes => exact eepromRead_writeBytes_other _ _ _ _ _ (by simpa using h addr off bytes rfl)
    | _ => rfl

/-- A reset keeps the canonical form of the recorded bytes. -/
theorem Memory.wf_abandon (t : Transport) (q : Option Request) (h : Memory.wf t.eeprom = true) :
    Memory.wf (t.abandon q).eeprom = true := by
  cases q with
  | none => exact h
  | some r =>
    cases r with
    | write a o bs => exact Memory.wf_writeBytes _ _ _ _ h
    | _ => exact h

end Sys2Proof.Machine
end

