-- ==== Sys2Proof/Tests/Slice0.lean ====
section
/-! SUPPORT. Tests: what well-formedness refuses, command words written out from the spec's encodings, single steps on
small states with the results that 95_test_vectors.md gives, and for each statement of Obligations with hypotheses a
concrete state and operands that meet them. -/

namespace Sys2Proof.Tests
open Sys2Proof.Machine

/-! Small states. -/

/-- The block after reset with DIV written. -/
def base : Block := { Block.reset with div := 0x1B }

/-- A state whose next turn is one host operation. -/
def hostState (b : Block) (op : HostOp) : State :=
  { block := b, host := { program := [op], data := 0 }
    transport := { eeprom := [], bus := .idle, abandoned := [], draws := 0 }, turns := [.host] }

/-- A state whose next turn is a response. -/
def answerState (b : Block) (p : Response) : State :=
  { block := b, host := { program := [], data := 0 }
    transport := { eeprom := [], bus := .idle, abandoned := [], draws := 0 }, turns := [.answer p] }

/-- The block after one step, none where there is no next state. -/
def after (s : State) : Option Block :=
  match step s with
  | .next t => some t.block
  | .fault _ => none
  | .refused _ => none

/-- STATUS after one step. -/
def statusAfter (s : State) : Option Word := (after s).map Block.statusWord

/-- The refusal of one step, none where it answers otherwise. -/
def refusalOf (s : State) : Option Refusal :=
  match step s with
  | .refused r => some r
  | .next _ => none
  | .fault _ => none

/-- The configuration of the word 0x001E0140: src 1, boot 2, wait 7, speed 1 (95_test_vectors.md 2.1). -/
def sdReady : Cfg := ⟨0, 2, 1, 0, 0, .sd 7 1⟩

/-- The delta registers of decode(0x00000000) (95_test_vectors.md P1). -/
def zeroRegs : FieldRegs := ⟨0x80000000, 0x80000000, 0x80000000, 0, 0, 0, 0x80000000, 0x80000000, 0x80000000⟩

/-- The delta registers of `sdReady` (95_test_vectors.md P1). -/
def sdRegs : FieldRegs :=
  ⟨0x80000001, 0x80000002, 0, 0x80000001, 0x80000007, 0, 0x80000000, 0x80000000, 0x80000000⟩

/-- Program P2 of 95_test_vectors.md in each phase. -/
def queryBlock : Block := { base with phase := .query, req := some .query }
def cancelBlock : Block := { base with phase := .cancel, req := some .cancel }
def configBlock : Block := { base with phase := .config, req := some (.configure 0x1B) }
def readBlock : Block := { base with phase := .read, nread := 1, req := some (.read 0x50 0 4) }
def writeBlock : Block :=
  { base with
    phase := .write, nread := 1, nwrite := 1, req := some (.write 0x50 0 [0x40, 0x01, 0x1E, 0x00])
    changed := true, work := sdReady, wout := 0x001E0140, dmask := 0x3E, dold := zeroRegs, dnew := sdRegs }
def readbackBlock : Block :=
  { writeBlock with phase := .readback, nread := 2, wrote := true, req := some (.read 0x50 0 4) }

/-! Well-formedness (R169, R172): a CODE too wide for its table. -/

theorem test_wf_phy_code_too_wide : (Instr.lookupPhy 4).wf = false := by decide
theorem test_wf_boot_code_too_wide : (Instr.lookupBoot 8).wf = false := by decide
theorem test_wf_src_code_too_wide : (Instr.lookupSrc 2).wf = false := by decide
theorem test_wf_xosc_code_too_wide : (Instr.lookupXosc 2).wf = false := by decide
theorem test_wf_pll_code_too_wide : (Instr.lookupPll 2).wf = false := by decide
theorem test_wf_wait_code_too_wide : (Instr.lookupWait 8).wf = false := by decide
theorem test_wf_speed_code_too_wide : (Instr.lookupSpeed 2).wf = false := by decide
theorem test_wf_widest_codes :
    [Instr.lookupPhy 3, .lookupBoot 7, .lookupSrc 1, .lookupXosc 1, .lookupPll 1, .lookupWait 7,
      .lookupSpeed 1].all Instr.wf = true := by decide

/-! Decoding: every row of R171 with its word, from 30_encoding.md and the examples of R270 to R276. -/

theorem test_decode_nop : decode 0x00000000 = .ok .nop := by decide
theorem test_decode_decode : decode 0x00000001 = .ok .decode := by decide
theorem test_decode_encodeCfg : decode 0x00000002 = .ok .encodeCfg := by decide
theorem test_decode_encodeWork : decode 0x00000012 = .ok .encodeWork := by decide
theorem test_decode_plan : decode 0x00000003 = .ok .plan := by decide
theorem test_decode_lookupPhy : decode 0x00000304 = .ok (.lookupPhy 3) := by decide
theorem test_decode_lookupBoot : decode 0x00000214 = .ok (.lookupBoot 2) := by decide
theorem test_decode_lookupSrc : decode 0x00000124 = .ok (.lookupSrc 1) := by decide
theorem test_decode_lookupXosc : decode 0x00000034 = .ok (.lookupXosc 0) := by decide
theorem test_decode_lookupPll : decode 0x00000144 = .ok (.lookupPll 1) := by decide
theorem test_decode_lookupWait : decode 0x00000754 = .ok (.lookupWait 7) := by decide
theorem test_decode_lookupSpeed : decode 0x00000164 = .ok (.lookupSpeed 1) := by decide
theorem test_decode_update : decode 0x00000005 = .ok .update := by decide

/-- The illegal words of 95_test_vectors.md 2.6, with the clause of R172 that names each. -/
theorem test_decode_illegal_words :
    [decode 0x00000006, decode 0x0000000F, decode 0x00000010, decode 0x00000022, decode 0x00000074, decode 0x00000404,
      decode 0x00000224, decode 0x00000105, decode 0x00000101, decode 0x00001000, decode 0xFFFFFFFF] =
    [.error .operation, .error .operation, .error .selector, .error .selector, .error .selector, .error .code,
      .error .code, .error .code, .error .code, .error .highBits, .error .highBits] := by decide

theorem test_decodeTableWord : decodeTableWord 32 0x554 = some (.lookupWait 5) ∧ decodeTableWord 32 0x6 = none := by
  decide

/-! The codec: rows of 95_test_vectors.md 2.1 and 2.2. -/

theorem test_codec_views :
    ([0x12345678, 0x00AA0160, 0x7FFEFE5C, 0xAAAAAAAA, 0x55555555, 0xFFFFFF1F] : List Word).map
      (fun w => (view0 (decodeRcw w), view1 (decodeRcw w), encodeRcw (decodeRcw w))) =
    [(0x20C, 0x1A, 0x00340060), (0x22C, 0x55, 0x00AA0160), (0x108, 0xF, 0x001E0040), (0x396, 0, 0x800000A2),
      (0x169, 0xA, 0x00150141), (0xE3, 0xFFFFFF, 0xFFFFFF1F)] := by decide

theorem test_gather_single_bits :
    ([0x4, 0x10, 0x200, 0x8000, 0x20000, 0x40000000] : List Word).map gatherQ =
      [0x1, 0x4, 0x8, 0x200, 0x400, 0x800000] := by decide

theorem test_scatter_values :
    ([0x7, 0x3F8, 0xFFFC00, 0x123456, 0xABCDEF] : List (BitVec 24)).map scatterQ =
      [0x1C, 0xFE00, 0x7FFE0000, 0x091A1418, 0x55E67A1C] := by decide

/-! The commands, one step each. -/

/-- The example of R205. -/
theorem test_nop_clears_error :
    statusAfter (hostState { base with err := true, errClass := .illegalCommand } (cmd .nop)) = some 0x2 := by decide

/-- 95_test_vectors.md F-drop-clear: OVR is cleared; CHANGED, WROTE, NREAD and NWRITE stay. -/
theorem test_nop_clears_ovr :
    statusAfter (hostState
      { base with done := true, changed := true, wrote := true, ovr := true, nread := 2, nwrite := 1 } (cmd .nop)) =
      some 0x0006001A := by decide

/-- 95_test_vectors.md 2.4. -/
theorem test_decode_sd_word :
    (after (hostState { base with raw := 0x001E0140 } (cmd .decode))).map
      (fun b => (view0 b.cfg, view1 b.cfg, b.statusWord)) = some (0x128, 0xF, 0x2) := by decide

theorem test_encodeCfg_reserved_boot :
    (after (hostState { base with cfg := ⟨3, 7, 1, 1, 1, .rsvd⟩ } (cmd .encodeCfg))).map Block.wout =
      some 0x800101E3 := by decide

theorem test_encodeWork_sd :
    (after (hostState { base with work := sdReady } (cmd .encodeWork))).map Block.wout = some 0x001E0140 := by decide

/-- 95_test_vectors.md P1 and 2.7. -/
theorem test_plan_from_zero :
    (after (hostState base (cmd .plan))).map (fun b => (b.statusWord, b.dmask, b.work, b.dold, b.dnew)) =
      some (0xA, 0x3E, sdReady, zeroRegs, sdRegs) := by decide

/-- The row 0x00AA0160 / 2 of 95_test_vectors.md 2.7: the MMC payload goes, WAIT is shared. -/
theorem test_plan_mmc_to_sd :
    (after (hostState { base with cfg := ⟨0, 3, 1, 0, 0, .mmc 5 10⟩ } (cmd .plan))).map
      (fun b => (b.dmask, b.dold.mmcMode, b.dnew.mmcMode, b.dold.wait, b.dnew.wait)) =
      some (0x74, 0x8000000A, 0, 0x80000005, 0x80000007) := by decide

/-- The examples of R270 to R276 and the unknown codes of 95_test_vectors.md 2.5. -/
theorem test_lookupPhy :
    (after (hostState base (.write 0 32 0x00000304))).map Block.lkp = some 0x00000130 := by decide
theorem test_lookupBoot_reserved :
    (after (hostState base (.write 0 32 0x00000114))).map Block.lkp = some 0x00000011 := by decide
theorem test_lookupBoot_sd :
    (after (hostState base (.write 0 32 0x00000214))).map Block.lkp = some 0x00000121 := by decide
theorem test_lookupSrc :
    (after (hostState base (.write 0 32 0x00000124))).map Block.lkp = some 0x00000112 := by decide
theorem test_lookupXosc :
    (after (hostState base (.write 0 32 0x00000034))).map Block.lkp = some 0x00000103 := by decide
theorem test_lookupPll :
    (after (hostState base (.write 0 32 0x00000144))).map Block.lkp = some 0x00000114 := by decide
theorem test_lookupWait_known :
    (after (hostState base (.write 0 32 0x00000754))).map Block.lkp = some 0x00320175 := by decide
theorem test_lookupWait_unknown :
    (after (hostState base (.write 0 32 0x00000554))).map (fun b => (b.lkp, b.statusWord)) =
      some (0x00000055, 0x2) := by decide
theorem test_lookupSpeed :
    (after (hostState base (.write 0 32 0x00000164))).map Block.lkp = some 0x00000116 := by decide

/-- 95_test_vectors.md P2. -/
theorem test_update_starts :
    (after (hostState base (cmd .update))).map (fun b => (b.statusWord, b.req)) = some (0x1001, some .query) := by
  decide

/-- 95_test_vectors.md 2.6 and P5: the error, with LKP kept. -/
theorem test_illegal_word :
    (after (hostState { base with lkp := 0x00320175 } (.write 0 32 0x404))).map (fun b => (b.statusWord, b.lkp)) =
      some (0x704, 0x00320175) := by decide

/-! Register writes (95_test_vectors.md 2.3, 2.8). -/

theorem test_cfg0_changes_variant :
    (after (hostState { base with cfg := sdReady } (wr .cfg0 0x0C))).map (fun b => (view0 b.cfg, view1 b.cfg)) =
      some (0x20C, 0) := by decide
theorem test_cfg0_keeps_payload :
    (after (hostState { base with cfg := ⟨0, 2, 0, 0, 0, .sd 7 1⟩ } (wr .cfg0 0x28))).map
      (fun b => (view0 b.cfg, view1 b.cfg)) = some (0x128, 0xF) := by decide
theorem test_cfg1_mmc :
    (after (hostState { base with cfg := ⟨0, 3, 0, 0, 0, .mmc 0 0⟩ } (wr .cfg1 0xFFFFFFFF))).map
      (fun b => view1 b.cfg) = some 0x7F := by decide
theorem test_addr_rejected :
    (after (hostState { base with done := true } (wr .addr 0x80))).map (fun b => (b.statusWord, b.addr)) =
      some (0x104, 0x50) := by decide
theorem test_addr_minus_one_rejected : statusAfter (hostState base (wr .addr 0xFFFFFFFF)) = some 0x104 := by decide
theorem test_target_rejected : statusAfter (hostState base (wr .target 1)) = some 0x804 := by decide
theorem test_target_stored :
    (after (hostState base (wr .target 3))).map (fun b => (b.statusWord, b.target)) = some (0, 3) := by decide

/-- 95_test_vectors.md P3: TARGET while BUSY is dropped. -/
theorem test_target_dropped_while_busy :
    (after (hostState queryBlock (wr .target 3))).map (fun b => (b.statusWord, b.target)) = some (0x1041, 2) := by
  decide

theorem test_misaligned_refused : refusalOf (hostState base (.read 0x02 32)) = some .misalignedAccess := by decide
theorem test_narrow_refused : refusalOf (hostState base (.write 0x18 16 0)) = some .accessWidth := by decide

/-! The update run, response by response (95_test_vectors.md P2, P3, P4 and 2.9). -/

theorem test_query_idle : statusAfter (answerState queryBlock .idle) = some 0x3001 := by decide
theorem test_query_busy : statusAfter (answerState queryBlock .busy) = some 0x2001 := by decide
theorem test_query_error :
    (after (answerState queryBlock (.err 7))).map (fun b => (b.statusWord, b.errCode)) = some (0x204, 7) := by decide
theorem test_cancel_ack : statusAfter (answerState cancelBlock .ack) = some 0x3001 := by decide
theorem test_configure_ok : statusAfter (answerState configBlock .ok) = some 0x14001 := by decide
theorem test_configure_error : statusAfter (answerState configBlock (.err 9)) = some 0x304 := by decide
theorem test_read_word :
    (after (answerState readBlock (.data [0, 0, 0, 0]))).map (fun b => (b.statusWord, b.req)) =
      some (0x55009, some (.write 0x50 0 [0x40, 0x01, 0x1E, 0x00])) := by decide
theorem test_read_planned_word :
    (after (answerState readBlock (.data [0x40, 0x01, 0x1E, 0x00]))).map (fun b => (b.statusWord, b.wout)) =
      some (0x10002, 0) := by decide
theorem test_read_short :
    (after (answerState readBlock (.data [0x40, 0x01]))).map (fun b => (b.statusWord, b.errCode)) =
      some (0x10604, 2) := by decide
theorem test_read_error : statusAfter (answerState readBlock (.err 0x21)) = some 0x10404 := by decide
theorem test_write_ok : statusAfter (answerState writeBlock .ok) = some 0x66019 := by decide
theorem test_write_error : statusAfter (answerState writeBlock (.err 0x41)) = some 0x5050C := by decide
theorem test_write_stores_low_byte_first :
    (match step (answerState writeBlock .ok) with
      | .next t => [0x5000, 0x5001, 0x5002, 0x5003].map (eepromLookup t.transport.eeprom)
      | .fault _ => []
      | .refused _ => []) = [some 0x40, some 0x01, some 0x1E, some 0x00] := by decide
theorem test_readback_confirms :
    (after (answerState readbackBlock (.data [0x40, 0x01, 0x1E, 0x00]))).map
      (fun b => (b.statusWord, b.rdbk, view0 b.cfg)) = some (0x6001A, 0x001E0140, 0x128) := by decide
theorem test_readback_mismatch :
    (after (answerState readbackBlock (.data [0x40, 0x01, 0x1A, 0x00]))).map
      (fun b => (b.statusWord, b.rdbk, view1 b.cfg)) = some (0x6003A, 0x001A0140, 0xD) := by decide
theorem test_readback_error : statusAfter (answerState readbackBlock (.err 0x22)) = some 0x6041C := by decide
theorem test_readback_short : statusAfter (answerState readbackBlock (.data [])) = some 0x6061C := by decide

/-- A response of a kind the request does not admit gets no step (R121). -/
theorem test_wrong_response_refused : refusalOf (answerState queryBlock .ack) = some .responseNotAdmitted := by decide
theorem test_response_without_request_refused :
    refusalOf (answerState base .ok) = some .noOutstandingRequest := by decide

/-- 95_test_vectors.md F-resetMidWrite. -/
theorem test_reset_mid_write :
    (after { answerState writeBlock .ok with turns := [.reset, .lateAnswer 0 .ok] }).map
      (fun b => (b.statusWord, b.addr, b.target, b.wout, b.req)) = some (0, 0x50, 2, 0, none) := by decide

/-! The hypotheses of the statements can be met: one theorem for each statement that has some. -/

/-- A WRITE-phase state, reached by no reset, that meets the invariant. -/
theorem writeState_inv : Inv (answerState writeBlock .ok) := by
  refine ⟨⟨by decide, by decide, .inr (.inl rfl), by decide, by decide, by decide, by decide, by decide, by decide,
    .inr (by decide), by decide, ?_, ?_, by decide, by decide, by decide, fun _ => by decide⟩, by decide⟩
  all_goals
    intro f
    cases f <;> decide

theorem witness_ResetEventRestoresTheBlock :
    (0 : Nat) ∉ eepromKeys 0x50 0 [(0x40 : Byte), 0x01, 0x1E, 0x00].length ∧
      writeBlock.req = some (.write 0x50 0 [0x40, 0x01, 0x1E, 0x00]) := by decide

theorem witness_AbandonedRequestsAnswerIsDiscarded :
    (answerState writeBlock .ok).block.req = some (.write 0x50 0 [0x40, 0x01, 0x1E, 0x00]) ∧
      [Request.configure 7, .read 0x50 0 4] = [.configure 7] ++ Request.read 0x50 0 4 :: [] ∧
      (Request.read 0x50 0 4).admits (.err 9) = true := by decide

/-- A late error for an abandoned Read leaves an older abandoned Configure, whose late Ok is discarded as well (R452,
I17). -/
theorem test_late_answers_in_any_order :
    let s := answerState base .ok
    (match runTurns [.lateAnswer 1 (.err 9), .lateAnswer 0 .ok]
        { s with transport := { s.transport with abandoned := [.configure 7, .read 0x50 0 4] } } with
      | .next t => some (t == s)
      | _ => none) = some true := by decide

theorem witness_StepKeepsTheInvariant : ∃ s t : State, Inv s ∧ s.block.phase = .write ∧ step s = .next t :=
  ⟨answerState writeBlock .ok, _, writeState_inv, rfl, rfl⟩

theorem witness_InvariantStatesNeverFault : ∃ s : State, Inv s ∧ s.block.req ≠ none ∧ s.turns ≠ [] :=
  ⟨answerState writeBlock .ok, writeState_inv, by decide, by decide⟩

theorem witness_OnlyUpdateLeavesIdle : ∃ s t : State, s.block.phase = .idle ∧ s.block.req = none ∧ step s = .next t ∧
    t.block.phase ≠ .idle :=
  ⟨hostState base (cmd .update), _, rfl, rfl, rfl, by decide⟩

/-- Both clauses: a dropped write sets OVR, a read changes nothing. -/
theorem witness_OnlyResponseOrResetMovesARun :
    (∃ t, step (hostState queryBlock (wr .raw 5)) = .next t ∧ t.block = { queryBlock with ovr := true }) ∧
      (∃ t, step (hostState queryBlock (rd .raw)) = .next t ∧ t.block = queryBlock) ∧ queryBlock.busy = true ∧
      (∀ ts, (hostState queryBlock (wr .raw 5)).turns ≠ .reset :: ts) :=
  ⟨⟨_, rfl, rfl⟩, ⟨_, rfl, rfl⟩, by decide, fun _ h => by cases h⟩

/-- The three clauses: the record stays, or a rejected ADDR or TARGET write overwrites it; and a change of the EEPROM
leaves it. -/
theorem witness_ErrorRecordStaysUntilTakeOrReset :
    let b : Block := { base with err := true, errClass := .illegalCommand }
    b.busy = false ∧ (Reg.addr.offset, Reg.target.offset) = (0x0C, 0x10) ∧
      (after { answerState b .ok with turns := [.eepromChange 0x50 0 [1]] }).map Block.errClass =
        some .illegalCommand ∧
      [rd .raw, wr .addr 0x80, wr .target 1].map (fun op => (after (hostState b op)).map Block.errClass) =
        [some .illegalCommand, some .invalidAddress, some .illegalTarget] := by decide

/-- Both clauses, the first at the ends of the offset range. -/
theorem witness_StepRunsTheDecodedCommand : decode 0x00000754 = .ok (.lookupWait 7) ∧
    (0x00 : BitVec 8).toNat % 4 = 0 ∧ (0xFC : BitVec 8).toNat % 4 = 0 := by decide

/-- One word for each clause of the rule, at the boundary of its range. -/
theorem witness_IllegalWordsAreThoseOfTheRule :
    base.phase = .idle ∧
      ([0x00001000, 0x00000006, 0x00000010, 0x00000022, 0x00000074, 0x00000100, 0x00000404, 0x00000814, 0x00000224]
        : List Word).all (fun w => match decode w with
          | .error _ => true
          | .ok _ => false) = true := by decide

theorem witness_CommandIsDroppedWhileBusy : (hostState queryBlock .waitIdle).block.busy = true := by decide
theorem witness_NopClearsErrorsAndSetsDone : (hostState base .waitIdle).block.phase = .idle := by decide
theorem witness_DecodeCommandWritesCfgFromRaw :
    (hostState { base with raw := 0x001E0140 } .waitIdle).block.phase = .idle := by decide
theorem witness_EncodeCfgWritesWout : (hostState { base with cfg := sdReady } .waitIdle).block.phase = .idle := by
  decide
theorem witness_EncodeWorkWritesWout : (hostState { base with work := sdReady } .waitIdle).block.phase = .idle := by
  decide
theorem witness_PlanCommandWritesWorkAndDelta :
    (hostState { base with target := 3 } .waitIdle).block.phase = .idle := by decide

/-- A known and an unknown code, the wait table and another, at both ends of the code range. -/
theorem witness_LookupWritesTheTableEntry :
    base.phase = .idle ∧
      ([0x00000754, 0x00000654, 0x00000054, 0x00000114, 0x00000304] : List Word).map
        (fun w => (after (hostState base (.write 0 32 w))).map Block.lkp) =
        [some 0x00320175, some 0x00000065, some 0x00000105, some 0x00000011, some 0x00000130] := by decide

theorem witness_UpdateTakeStartsTheRun :
    (hostState { base with changed := true, dmask := 0x3E } .waitIdle).block.phase = .idle := by decide

/-- Both clauses at the boundary of the range. -/
theorem witness_AddrWriteIsValidated : base.phase = .idle ∧ (0x7F : Word) ≤ 0x7F ∧ (0x7F : Word) < 0x80 := by decide

theorem witness_TargetWriteIsValidated :
    base.phase = .idle ∧ ((3 : Word) = 0 ∨ (3 : Word) = 2 ∨ (3 : Word) = 3) ∧
      ¬((1 : Word) = 0 ∨ (1 : Word) = 2 ∨ (1 : Word) = 3) ∧ ¬((4 : Word) = 0 ∨ (4 : Word) = 2 ∨ (4 : Word) = 3) := by
  decide

theorem witness_DivAndRawWritesStoreEveryValue : (hostState base (wr .div 0xFFFFFFFF)).block.phase = .idle := by decide

/-- Boot 1 to 5 keeps the variant, boot 0 to 2 changes it. -/
theorem witness_Cfg0WriteSetsCommonFields :
    base.phase = .idle ∧ variantOf ((0x14 : Word).extractLsb' 2 3) = variantOf 1 ∧
      variantOf ((0x08 : Word).extractLsb' 2 3) ≠ variantOf base.cfg.boot := by decide

/-- Each payload alternative occurs in an idle block. -/
theorem witness_Cfg1WriteSetsTheActivePayload :
    [Payload.qspi 0xFFFFFF, .sd 7 1, .mmc 7 15, .rsvd].all
      (fun p => ({ base with cfg := { base.cfg with pay := p } } : Block).phase = .idle) = true := by decide

theorem witness_WritesAreDroppedWhileBusy :
    queryBlock.busy = true ∧ (0x20 : BitVec 8) ∈ ([0x00, 0x0C, 0x10, 0x14, 0x18, 0x1C, 0x20] : List (BitVec 8)) := by
  decide

theorem witness_ReservedAndReadOnlyOffsetsIgnoreWrites :
    ([0x3C, 0x88, 0xFC] : List (BitVec 8)).all (fun o => o.toNat % 4 = 0 && (o = 0x3C || 0x88 ≤ o)) = true ∧
      (0x84 : BitVec 8).toNat % 4 = 0 ∧
      (0x84 : BitVec 8) ∉ ([0x00, 0x0C, 0x10, 0x14, 0x18, 0x1C, 0x20] : List (BitVec 8)) := by decide

theorem witness_HostReadReturnsTheRegister : (0xFC : BitVec 8).toNat % 4 = 0 := by decide

/-- Both clauses, with a read and with a write. -/
theorem witness_MisalignedOrNarrowAccessIsRefused :
    (hostState base (.read 0xFF 32)).turns = [.host] ∧
      (hostState base (.read 0xFF 32)).host.program = [.read 0xFF 32] ∧ (0xFF : BitVec 8).toNat % 4 ≠ 0 ∧
      (hostState base (.write 0x18 16 0)).host.program = [.write 0x18 16 0] ∧ (0x18 : BitVec 8).toNat % 4 = 0 ∧
      16 ≠ 32 := by decide

theorem witness_WaitIdlePollsStatusUntilIdle : queryBlock.busy = true ∧ base.busy = false := by decide

theorem witness_PreflightAnswersSelectTheNextPhase :
    queryBlock.phase = .query ∧ queryBlock.req = some .query ∧ cancelBlock.phase = .cancel ∧
      cancelBlock.req = some .cancel := by decide

theorem witness_ConfigureAnswerLeadsToRead :
    configBlock.phase = .config ∧ configBlock.req = some (.configure 0x1B) := by decide

/-- Both phases, with the shortest, the nearest and the longest lists. -/
theorem witness_FailedReadEndsTheRun :
    (readBlock.phase = .read ∧ readBlock.req = some (.read 0x50 0 4)) ∧
      (readbackBlock.phase = .readback ∧ readbackBlock.req = some (.read 0x50 0 4)) ∧
      ([0, 3, 5, 60].all fun n => decide ((List.replicate n (0 : Byte)).length ≤ Config.maxXfer) &&
        decide ((List.replicate n (0 : Byte)).length ≠ 4)) = true := by decide

theorem witness_WordReadWithDeltaPlacesTheWrite :
    readBlock.phase = .read ∧ readBlock.req = some (.read 0x50 0 4) ∧
      plan (decodeRcw 0x00000000) readBlock.target ≠ decodeRcw 0x00000000 ∧ readBlock.target = 2 := by decide

theorem witness_WordReadWithoutDeltaEndsTheRun :
    readBlock.phase = .read ∧ readBlock.req = some (.read 0x50 0 4) ∧
      plan (decodeRcw 0x001E0140) readBlock.target = decodeRcw 0x001E0140 ∧ readBlock.progressLegal = true := by
  decide

theorem witness_WriteAckLeadsToReadBack :
    writeBlock.phase = .write ∧ writeBlock.req = some (.write 0x50 0 [0x40, 0x01, 0x1E, 0x00]) ∧
      0x5004 ∉ eepromKeys 0x50 0 4 ∧ 0x4FFF ∉ eepromKeys 0x50 0 4 := by decide

theorem witness_WriteErrorEndsTheRun :
    writeBlock.phase = .write ∧ writeBlock.req = some (.write 0x50 0 [0x40, 0x01, 0x1E, 0x00]) ∧
      0x5004 ∉ eepromKeys 0x50 0 [(0x40 : Byte), 0x01, 0x1E, 0x00].length := by decide

theorem witness_ReadBackConfirmsTheWord :
    readbackBlock.phase = .readback ∧ readbackBlock.req = some (.read 0x50 0 4) := by decide

theorem witness_UnadmittedResponsesGetNoStep :
    (answerState base .ok).turns = [.answer .ok] ∧ base.req = none ∧ queryBlock.req = some .query ∧
      Request.query.admits .ack = false ∧
      (Request.read 0x50 0 4).admits (.data (List.replicate 61 0)) = false := by decide

theorem witness_RunPlacesALegalRequestSequence :
    base.phase = .idle ∧ ∃ t, exec .update (hostState base .waitIdle) = .next t := ⟨by decide, _, rfl⟩

/-- Two states that differ in what an earlier run left, and a response both runs answer with a next state. -/
theorem witness_RunOutcomeIgnoresEarlierValues :
    ∃ u₁ u₂ t₁ t₂, exec .update (answerState base .idle) = .next u₁ ∧
      exec .update (answerState { base with wout := 5, cfg := sdReady } .idle) = .next u₂ ∧
      runTurns ([Response.idle].map .answer) u₁ = .next t₁ ∧ runTurns ([Response.idle].map .answer) u₂ = .next t₂ ∧
      base.wout ≠ 5 :=
  ⟨_, _, _, _, rfl, rfl, rfl, rfl, by decide⟩

theorem witness_EepromChangesOnlyThroughWrites :
    ∃ t, step (answerState readBlock (.data [0, 0, 0, 0])) = .next t ∧ readBlock.req = some (.read 0x50 0 4) ∧
      (answerState readBlock (.data [0, 0, 0, 0])).turns = [.answer (.data [0, 0, 0, 0])] := ⟨_, rfl, rfl, rfl⟩

/-- An idle state with recorded EEPROM bytes, whose ADDR is the address of the environment. -/
def environmentState (m : Memory) (bus : BusState) : State :=
  { block := { base with addr := Config.eepromAddr }, host := { program := [], data := 0 }
    transport := { eeprom := m, bus := bus, abandoned := [], draws := 0 }, turns := [] }

theorem environmentState_inv (m : Memory) (bus : BusState) (h : Memory.wf m = true) : Inv (environmentState m bus) := by
  have b : BlockInv { base with addr := Config.eepromAddr } := by
    refine ⟨rfl, rfl, .inr (.inl rfl), rfl, by decide, by decide, by decide, fun _ => rfl, rfl, .inl rfl, rfl, ?_, ?_,
      rfl, by decide, by decide, by decide⟩
    all_goals
      intro f
      cases f <;> rfl
  exact ⟨b, h⟩

/-- Some canonical EEPROM content gives the bytes of any word at the address of the environment. -/
theorem eeprom_holding (w : Word) :
    ∃ m : Memory, Memory.wf m = true ∧ eepromReadBytes m Config.eepromAddr 0 4 = bytesLE w :=
  ⟨_, Memory.wf_writeBytes (bytesLE w) [] Config.eepromAddr 0 rfl, eepromReadBytes_writeBytes [] Config.eepromAddr w⟩

theorem zero_is_not_planned : plan (decodeRcw 0) 2 ≠ decodeRcw 0 := by decide

theorem sdReady_is_planned : plan (decodeRcw 0x001E0140) 2 = decodeRcw 0x001E0140 := by decide

theorem witness_RunInTheEnvironmentWritesThePlannedWord :
    ∃ (s t : State) (r : Word), Inv s ∧ s.block.phase = .idle ∧ s.block.addr = Config.eepromAddr ∧
      s.transport.bus = .idle ∧ exec .update s = .next t ∧
      eepromReadBytes s.transport.eeprom s.block.addr 0 4 = bytesLE r ∧
      plan (decodeRcw r) s.block.target ≠ decodeRcw r := by
  obtain ⟨m, hw, hm⟩ := eeprom_holding 0
  exact ⟨environmentState m .idle, _, 0, environmentState_inv m .idle hw, rfl, rfl, rfl, rfl, hm, zero_is_not_planned⟩

/-- With an idle and with a busy bus. -/
theorem witness_RunOnAPlannedWordWritesNothing (bus : BusState) :
    ∃ (s t : State) (r : Word), s.block.phase = .idle ∧ s.block.addr = Config.eepromAddr ∧ s.transport.bus = bus ∧
      exec .update s = .next t ∧ eepromReadBytes s.transport.eeprom s.block.addr 0 4 = bytesLE r ∧
      plan (decodeRcw r) s.block.target = decodeRcw r := by
  obtain ⟨m, -, hm⟩ := eeprom_holding 0x001E0140
  exact ⟨environmentState m bus, _, 0x001E0140, rfl, rfl, rfl, rfl, hm, sdReady_is_planned⟩

theorem witness_FieldsAreMaskAndShift : 0 ≤ 32 ∧ 32 ≤ 32 := by decide

/-- A word for each variant. -/
theorem witness_EveryWordDecodesToTheRulesFields :
    (0x7FFEFE1C : Word).extractLsb' 5 3 = 0 ∧ (0x001E0140 : Word).extractLsb' 5 3 = 2 ∧
      (0x00AA0160 : Word).extractLsb' 5 3 = 3 ∧
      (0x00000020 : Word).extractLsb' 5 3 ∈ ([1, 4, 5, 6, 7] : List (BitVec 3)) := by decide

theorem witness_EncodeOfDecodeKeepsMeaningfulBits :
    (0x7FFEFE1C : Word).extractLsb' 5 3 = 0 ∧
      (0x001E0140 : Word).extractLsb' 5 3 ∈ ([2, 3] : List (BitVec 3)) := by decide

theorem witness_DecodeOfEncodedCfgIsTheCfg : sdReady.wf = true ∧ (⟨3, 7, 1, 1, 1, .rsvd⟩ : Cfg).wf = true := by decide
theorem witness_EncodeSetsNoReservedBit : (⟨0, 3, 1, 0, 0, .mmc 5 10⟩ : Cfg).wf = true := by decide

theorem witness_PlanIsIdempotent :
    (⟨0, 3, 1, 0, 0, .mmc 5 10⟩ : Cfg).wf = true ∧ ((2 : BitVec 3) = 0 ∨ (2 : BitVec 3) = 2 ∨ (2 : BitVec 3) = 3) := by
  decide

/-- A switch to SD, and the other targets. -/
theorem witness_PlanReachesTheKnownGoodSettings :
    (⟨0, 3, 1, 0, 0, .mmc 5 10⟩ : Cfg).wf = true ∧ (3 : BitVec 3) ≠ 2 ∧
      [(0 : BitVec 3), 2, 3].all (fun t => t = 0 || t = 2 || t = 3) = true := by decide

theorem witness_DeltaIsEmptyExactlyWhenEqual : sdReady.wf = true ∧ Cfg.reset.wf = true ∧ sdReady ≠ Cfg.reset := by
  decide

/-- Each payload alternative. -/
theorem witness_DeltaRegistersHoldTheEncodedFields :
    sdReady.pay = .sd 7 1 ∧ Cfg.reset.pay = .qspi 0 ∧ (⟨0, 3, 1, 0, 0, .mmc 5 10⟩ : Cfg).pay = .mmc 5 10 ∧
      (⟨3, 7, 1, 1, 1, .rsvd⟩ : Cfg).pay = .rsvd := by decide

end Sys2Proof.Tests
end

section
/-! The operations of 00_scope.md: a field by mask and shift (R6), and a word as its four bytes (R7). -/

namespace Sys2Proof.Machine

/-! A field by mask and shift (R6) -/

/-- The mask `(1 << n) - 1` of R6 holds the n lowest bits; at the full width the shifted 1 leaves the word, and the
subtraction wraps to all ones. -/
theorem getLsbD_lowMask (n i : Nat) : ((1 <<< n) - 1 : Word).getLsbD i = (decide (i < 32) && decide (i < n)) := by
  have hmask : ((1 <<< n) - 1 : Word) = BitVec.ofNat 32 (2 ^ n - 1) := by
    rw [Nat.one_shiftLeft]
    exact BitVec.ofNat_sub_ofNat_of_le (2 ^ n) 1 (by decide) Nat.one_le_two_pow
  rw [hmask, BitVec.getLsbD_ofNat, Nat.testBit_two_pow_sub_one]

theorem getBits_eq_shift_mask (w : Word) (lo n : Nat) :
    (getBits w lo n).setWidth 32 = (w >>> lo) &&& ((1 <<< n) - 1) := by
  refine BitVec.eq_of_getLsbD_eq fun i hi => ?_
  rw [BitVec.getLsbD_setWidth, getLsbD_getBits, BitVec.getLsbD_and, BitVec.getLsbD_ushiftRight, getLsbD_lowMask]
  simp [hi, Bool.and_comm]

theorem putBits_eq_mask_shift (w : Word) (lo n : Nat) :
    putBits (w.setWidth n) lo = (w &&& ((1 <<< n) - 1)) <<< lo := by
  have hcut : (w.setWidth n).setWidth 32 = w &&& ((1 <<< n) - 1) := by
    refine BitVec.eq_of_getLsbD_eq fun i hi => ?_
    rw [BitVec.getLsbD_setWidth, BitVec.getLsbD_setWidth, BitVec.getLsbD_and, getLsbD_lowMask]
    simp [hi, Bool.and_comm]
  rw [putBits, hcut]

/-- Settles O49: both formulas come from the mask's bits, `getLsbD_lowMask`, at any width. -/
theorem fieldsAreMaskAndShift : Obligations.FieldsAreMaskAndShift :=
  fun w lo n _ => ⟨getBits_eq_shift_mask w lo n, putBits_eq_mask_shift w lo n⟩

/-! A word as its four bytes (R7) -/

theorem wordLE_eq_or_shifts (b0 b1 b2 b3 : Byte) : wordLE b0 b1 b2 b3 =
    b0.setWidth 32 ||| (b1.setWidth 32 <<< 8) ||| (b2.setWidth 32 <<< 16) ||| (b3.setWidth 32 <<< 24) := by
  simp only [wordLE, putBits, BitVec.shiftLeft_zero]

theorem getBits_or (v w : Word) (lo n : Nat) : getBits (v ||| w) lo n = getBits v lo n ||| getBits w lo n := by
  refine BitVec.eq_of_getLsbD_eq fun i hi => ?_
  simp only [BitVec.getLsbD_or, getLsbD_getBits, Bool.and_or_distrib_left]

/-- Bytes put at different places do not overlap: a byte stands at its own place, and every other byte is 0. -/
theorem getBits_putBits_byte (b : Byte) (j : Nat) {k : Nat} (hk : k < 4) :
    getBits (putBits b (8 * j)) (8 * k) 8 = if j = k then b else 0 := by
  refine BitVec.eq_of_getLsbD_eq fun i hi => ?_
  have hword : 8 * k + i < 32 := by omega
  rw [getLsbD_getBits, getLsbD_putBits]
  rcases lt_trichotomy j k with hlt | rfl | hgt
  · have habove : b.getLsbD (8 * k + i - 8 * j) = false := BitVec.getLsbD_of_ge b _ (by omega)
    simp [habove, hlt.ne]
  · simp [hi, hword]
  · have hbelow : ¬ 8 * j ≤ 8 * k + i := by omega
    simp [hbelow, hgt.ne']

theorem getBits_wordLE (b0 b1 b2 b3 : Byte) {k : Nat} (hk : k < 4) :
    getBits (wordLE b0 b1 b2 b3) (8 * k) 8 = [b0, b1, b2, b3][k] := by
  have hplaces : wordLE b0 b1 b2 b3 =
      putBits b0 (8 * 0) ||| putBits b1 (8 * 1) ||| putBits b2 (8 * 2) ||| putBits b3 (8 * 3) := rfl
  simp only [hplaces, getBits_or, getBits_putBits_byte _ _ hk]
  match k, hk with
  | 0, _ | 1, _ | 2, _ | 3, _ => simp

theorem getElem_bytesLE (w : Word) {k : Nat} (hk : k < (bytesLE w).length) :
    (bytesLE w)[k] = getBits w (8 * k) 8 := by
  match k, hk with
  | 0, _ | 1, _ | 2, _ | 3, _ => rfl

theorem bytesLE_wordLE (b0 b1 b2 b3 : Byte) : bytesLE (wordLE b0 b1 b2 b3) = [b0, b1, b2, b3] :=
  List.ext_getElem rfl fun _ hk _ => (getElem_bytesLE _ hk).trans (getBits_wordLE b0 b1 b2 b3 hk)

theorem getLsbD_eq_getLsbD_byte (w : Word) (i : Nat) :
    w.getLsbD i = (getBits w (8 * (i / 8)) 8).getLsbD (i % 8) := by
  rw [getLsbD_getBits, Nat.div_add_mod]
  simp [Nat.mod_lt]

/-- The four bytes determine the word: bit i of a word is bit i % 8 of its byte i / 8. -/
theorem bytesLE_injective : Function.Injective bytesLE := by
  intro v w h
  have hbyte {k : Nat} (hk : k < 4) : getBits v (8 * k) 8 = getBits w (8 * k) 8 :=
    calc getBits v (8 * k) 8
      _ = (bytesLE v)[k]'hk := (getElem_bytesLE v hk).symm
      _ = (bytesLE w)[k]'hk := List.getElem_of_eq h hk
      _ = getBits w (8 * k) 8 := getElem_bytesLE w hk
  refine BitVec.eq_of_getLsbD_eq fun i hi => ?_
  rw [getLsbD_eq_getLsbD_byte v, getLsbD_eq_getLsbD_byte w, hbyte (by omega)]

theorem wordLE_getBits (w : Word) : wordLE (getBits w 0 8) (getBits w 8 8) (getBits w 16 8) (getBits w 24 8) = w :=
  bytesLE_injective (bytesLE_wordLE ..)

/-- Settles O50: the formulas are the definitions, `bytesLE` undoes `wordLE` byte by byte, and `wordLE` undoes
`bytesLE` because the bytes determine the word. -/
theorem littleEndianBytesAreInverse : Obligations.LittleEndianBytesAreInverse :=
  ⟨wordLE_eq_or_shifts, fun _ => rfl, fun w => ⟨_, _, _, _, rfl, wordLE_getBits w⟩, bytesLE_wordLE⟩

end Sys2Proof.Machine
end

section
/-! The invariant of every step (10_state.md): what each update of the block keeps of `BlockInv`, and so what every
effect of a host write, every reaction to a response and every step keeps. -/

namespace Sys2Proof.Machine

/-! The words of the delta registers, DMASK and LKP (R61 to R63) -/

theorem FieldId.exists_number_eq {i : Nat} (hpos : 0 < i) (hlt : i < 10) : ∃ f : FieldId, f.number = i := by
  interval_cases i
  exacts [⟨.src, rfl⟩, ⟨.boot, rfl⟩, ⟨.qspiQ, rfl⟩, ⟨.speed, rfl⟩, ⟨.wait, rfl⟩, ⟨.mmcMode, rfl⟩, ⟨.phy, rfl⟩,
    ⟨.xosc, rfl⟩, ⟨.pll, rfl⟩]

/-- The set bits of DMASK are the ids of the fields whose registers differ (R61, R293). -/
theorem deltaMask_getLsbD_iff (o n : FieldRegs) (i : Nat) :
    (deltaMask o n).getLsbD i = true ↔ ∃ f : FieldId, f.number = i ∧ o.get f ≠ n.get f := by
  constructor
  · intro h
    rw [deltaMask, BitVec.getLsbD_setWidth] at h
    have hpos : i ≠ 0 := by
      rintro rfl
      rw [BitVec.getLsbD_append] at h
      simp at h
    have hlt : i < 10 := by
      by_contra hge
      rw [BitVec.getLsbD_of_ge _ i (by omega)] at h
      simp at h
    obtain ⟨f, rfl⟩ := FieldId.exists_number_eq (Nat.pos_of_ne_zero hpos) hlt
    rw [← BitVec.getLsbD_setWidth, ← deltaMask, deltaMask_getLsbD] at h
    exact ⟨f, rfl, by simpa using h⟩
  · rintro ⟨f, rfl, hne⟩
    rw [deltaMask_getLsbD]
    simpa using hne

/-- A word is clear under a mask that holds none of its bits. -/
theorem and_eq_zero_of_disjoint {v m : Word} (h : ∀ i < 32, v.getLsbD i = true → m.getLsbD i = false) :
    v &&& m = 0#32 := by
  refine BitVec.eq_of_getLsbD_eq fun i hi => ?_
  rw [BitVec.getLsbD_and, BitVec.getLsbD_zero]
  cases hv : v.getLsbD i with
  | false => rfl
  | true => rw [h i hi hv]; rfl

/-- DMASK is clear under a mask that covers no field whose registers differ. -/
theorem deltaMask_and_eq_zero {o n : FieldRegs} {m : Word}
    (h : ∀ f : FieldId, m.getLsbD f.number = true → o.get f = n.get f) : deltaMask o n &&& m = 0 := by
  refine and_eq_zero_of_disjoint fun i _ hi => ?_
  obtain ⟨f, rfl, hne⟩ := (deltaMask_getLsbD_iff o n i).1 hi
  exact Bool.eq_false_iff.2 fun hm => hne (h f hm)

theorem deltaRegLegal_encField_setWidth {k : Nat} (hk : k ≤ 24) (v : BitVec k) :
    deltaRegLegal (encField (some (v.setWidth 32))) = true := by
  have hhigh : v.setWidth 32 &&& 0xFF000000#32 = 0#32 := by
    have hmask : ∀ i < 24, (0xFF000000#32).getLsbD i = false := by decide
    refine and_eq_zero_of_disjoint fun i hi hv => hmask i ?_
    by_contra hge
    rw [BitVec.getLsbD_setWidth, BitVec.getLsbD_of_ge v i (by omega)] at hv
    simp at hv
  simp [deltaRegLegal, encField, BitVec.and_or_distrib_right, hhigh]

theorem deltaRegLegal_encField_none : deltaRegLegal (encField none) = true := rfl

/-- A delta register written from a configuration holds the encoding of a field (R62). -/
theorem deltaRegLegal_ofCfg (c : Cfg) (f : FieldId) : deltaRegLegal ((FieldRegs.ofCfg c).get f) = true := by
  rw [FieldRegs.ofCfg_get]
  cases f with
  | src | boot | phy | xosc | pll => exact deltaRegLegal_encField_setWidth (by decide) _
  | qspiQ | speed | wait | mmcMode =>
    simp only [fieldVal]
    split <;> simp only [deltaRegLegal_encField_none, deltaRegLegal_encField_setWidth, Nat.reduceLeDiff]

theorem lookupWord_reserved (t : Table) (c : BitVec 4) : lookupWord t c &&& 0xFF00FE00 = 0 := by
  have hmask : (0xFF00FE00 : Word) = (0xFF#8 ++ 0#8 ++ 0x7F#7 ++ 0#1 ++ 0#4 ++ 0#4 : BitVec 32) := by decide
  rw [hmask, lookupWord]
  rw [BitVec.and_append (w := 28), BitVec.and_append (w := 24), BitVec.and_append (w := 23),
    BitVec.and_append (w := 16), BitVec.and_append]
  simp only [BitVec.and_zero, BitVec.zero_and]
  rfl

/-! Well-formed configurations (R32) -/

theorem decodeRcw_wf (w : Word) : (decodeRcw w).wf = true := by simp [Cfg.wf_iff, decodeRcw]

theorem writeView0_wf {c : Cfg} (h : c.wf = true) (d : Word) : (writeView0 c d).wf = true := by
  rw [Cfg.wf_iff] at h ⊢
  by_cases hv : variantOf (getBits d 2 3) = variantOf c.boot
  · simp [writeView0, hv, h]
  · simp [writeView0, hv]

theorem writeView1_wf {c : Cfg} (h : c.wf = true) (d : Word) : (writeView1 c d).wf = true := by
  rw [Cfg.wf_iff] at h ⊢
  cases hp : c.pay <;> simpa [writeView1, hp, Payload.variant] using h

theorem planSource_wf {c : Cfg} (h : c.wf = true) : (planSource c).wf = true := by
  rw [planSource_eq]; exact h

theorem planBoot_wf {c : Cfg} (t : BitVec 3) (h : c.wf = true) : (planBoot t c).wf = true := by
  unfold planBoot
  split
  · simp [Cfg.wf_iff]
  · exact h

theorem planSd_wf {c : Cfg} (h : c.wf = true) : (planSd c).wf = true := by
  rw [Cfg.wf_iff] at h ⊢
  unfold planSd
  split
  · cases hp : c.pay <;> simpa [hp, Payload.variant] using h
  · exact h

theorem plan_wf {c : Cfg} (t : BitVec 3) (h : c.wf = true) : (plan c t).wf = true :=
  planSd_wf (planBoot_wf t (planSource_wf h))

/-! The fields the plan never changes (R299) -/

/-- Two configurations agree in phy, xosc and pll. -/
def Cfg.SameBoard (c d : Cfg) : Prop := d.phy = c.phy ∧ d.xosc = c.xosc ∧ d.pll = c.pll

theorem Cfg.SameBoard.trans {c d e : Cfg} : c.SameBoard d → d.SameBoard e → c.SameBoard e
  | ⟨hphy, hxosc, hpll⟩, ⟨hphy', hxosc', hpll'⟩ => ⟨hphy'.trans hphy, hxosc'.trans hxosc, hpll'.trans hpll⟩

theorem planBoot_sameBoard (t : BitVec 3) (c : Cfg) : c.SameBoard (planBoot t c) := by
  unfold planBoot; split <;> exact ⟨rfl, rfl, rfl⟩

theorem planSd_sameBoard (c : Cfg) : c.SameBoard (planSd c) := by
  unfold planSd
  split
  · split <;> exact ⟨rfl, rfl, rfl⟩
  · exact ⟨rfl, rfl, rfl⟩

theorem plan_sameBoard (c : Cfg) (t : BitVec 3) : c.SameBoard (plan c t) := by
  have hsource : c.SameBoard (planSource c) := by rw [planSource_eq]; exact ⟨rfl, rfl, rfl⟩
  exact (hsource.trans (planBoot_sameBoard t _)).trans (planSd_sameBoard _)

/-- DMASK of a plan has its reserved bits and the bits of PHY, XOSC and PLL clear (R61, R299). -/
theorem deltaMask_plan_reserved (c : Cfg) (t : BitVec 3) :
    deltaMask (FieldRegs.ofCfg c) (FieldRegs.ofCfg (plan c t)) &&& 0xFFFFFF81 = 0 := by
  obtain ⟨hphy, hxosc, hpll⟩ := plan_sameBoard c t
  refine deltaMask_and_eq_zero fun f hf => ?_
  rw [FieldRegs.ofCfg_get, FieldRegs.ofCfg_get]
  cases f with
  | phy => simp only [fieldVal, hphy]
  | xosc => simp only [fieldVal, hxosc]
  | pll => simp only [fieldVal, hpll]
  | src | boot | qspiQ | speed | wait | mmcMode => exact absurd hf (by decide)

/-! What ends or starts a run, seen from the invariant -/

/-- What follows the plan step in phase READ: the Write of the planned word where the plan changes a field, else the end
of the run (R327, R328). -/
def Block.afterPlan (b : Block) : Block :=
  if b.changed then
    { b with wout := encodeRcw b.work, phase := .write, nwrite := 1, req := some (b.writeRequest (encodeRcw b.work)) }
  else b.finish

theorem Block.onWordRead_eq_afterPlan (b : Block) (r : Word) :
    b.onWordRead r = ({ b with raw := r, cfg := decodeRcw r }.planFrom (decodeRcw r)).afterPlan := rfl

theorem Block.expectedRequest_idle {b : Block} (hp : b.phase = .idle) : b.expectedRequest = none := by
  simp [Block.expectedRequest, hp]

theorem Block.req_matches_idle {b : Block} (hp : b.phase = .idle) (hr : b.req = none) : b.req = b.expectedRequest :=
  hr.trans (Block.expectedRequest_idle hp).symm

/-- A run may end in any phase: its counters are legal ones of an idle block (R47, R333). -/
theorem Block.progressLegal_end {b b' : Block} (h : b.progressLegal = true) (hp : b'.phase = .idle)
    (he : b'.progress = b.progress) : b'.progressLegal = true := by
  simp only [Block.progressLegal, hp, he]
  cases hb : b.phase <;> simp_all [Block.progressLegal]

namespace BlockInv

variable {b : Block}

theorem req_idle (h : BlockInv b) (hp : b.phase = .idle) : b.req = none := by
  rw [h.req_matches, Block.expectedRequest_idle hp]

theorem busy_no_vmismatch (h : BlockInv b) (hb : b.busy = true) : b.vmismatch = false := by
  by_contra hv
  exact (b.busy_eq_true_iff).1 hb (h.vmismatch_after (by simpa using hv)).1

theorem readback_wrote (h : BlockInv b) (hp : b.phase = .readback) : b.wrote = true := by
  have hprog := h.progress_legal
  simp only [Block.progressLegal, hp, Block.progress, decide_eq_true_eq, Prod.mk.injEq] at hprog
  exact hprog.2.2

/-! Updates of one register in any phase -/

theorem setCfg (h : BlockInv b) {c : Cfg} (hc : c.wf = true) : BlockInv { b with cfg := c } :=
  { h with cfg_wf := hc }

theorem setRaw (h : BlockInv b) (w : Word) : BlockInv { b with raw := w } := { h with }

theorem setRdbk (h : BlockInv b) (w : Word) : BlockInv { b with rdbk := w } := { h with }

theorem setTarget (h : BlockInv b) {t : BitVec 3} (ht : t = 0 ∨ t = 2 ∨ t = 3) : BlockInv { b with target := t } :=
  { h with target_legal := ht }

theorem setLkp (h : BlockInv b) {w : Word} (hw : w &&& 0xFF00FE00 = 0) : BlockInv { b with lkp := w } :=
  { h with lkp_bits := hw }

theorem dropWrite (h : BlockInv b) : BlockInv b.dropWrite := { h with }

/-! Updates outside a run -/

theorem setDiv (h : BlockInv b) (hp : b.phase = .idle) (w : Word) : BlockInv { b with div := w } :=
  { h with req_matches := Block.req_matches_idle hp (h.req_idle hp) }

theorem setAddr (h : BlockInv b) (hp : b.phase = .idle) (a : SlaveAddr) : BlockInv { b with addr := a } :=
  { h with req_matches := Block.req_matches_idle hp (h.req_idle hp) }

theorem setWout (h : BlockInv b) (hp : b.phase = .idle) (w : Word) : BlockInv { b with wout := w } :=
  { h with
    req_matches := Block.req_matches_idle hp (h.req_idle hp)
    write_planned := by simp [hp] }

theorem setVmismatch (h : BlockInv b) (hp : b.phase = .idle) (hw : b.wrote = true) (v : Bool) :
    BlockInv { b with vmismatch := v } :=
  { h with vmismatch_after := fun _ => ⟨hp, hw⟩ }

theorem clearForTake (h : BlockInv b) : BlockInv b.clearForTake :=
  { h with
    not_done_and_err := by simp
    busy_clears := by simp
    errClass_none := by simp
    errCode_zero := by simp }

theorem setDone (h : BlockInv b) (hp : b.phase = .idle) (he : b.err = false) : BlockInv b.setDone :=
  { h with
    not_done_and_err := by simp [he]
    busy_clears := fun hb => absurd hp ((b.busy_eq_true_iff).1 hb) }

/-- The plan step on a well-formed configuration, while WOUT is not yet the word of a Write (R296, R327). -/
theorem planFrom (h : BlockInv b) (hp : ¬(b.phase = .write ∨ b.phase = .readback)) {c : Cfg} (hc : c.wf = true) :
    BlockInv (b.planFrom c) :=
  { h with
    work_wf := plan_wf _ hc
    changed_dmask := rfl
    dmask_delta := .inr rfl
    dmask_bits := deltaMask_plan_reserved ..
    dold_legal := deltaRegLegal_ofCfg _
    dnew_legal := deltaRegLegal_ofCfg _
    write_planned := fun hw => absurd hw hp }

theorem startRun (h : BlockInv b) (hd : b.done = false) (he : b.err = false) : BlockInv b.startRun :=
  { h with
    req_matches := rfl
    busy_clears := fun _ => ⟨hd, he⟩
    changed_dmask := rfl
    dmask_delta := .inl rfl
    dmask_bits := BitVec.zero_and
    progress_legal := rfl
    vmismatch_after := by simp [Block.startRun]
    write_planned := by simp [Block.startRun] }

/-! The end of a run -/

/-- A raise in any phase leaves an idle block without a request (R403, R405). -/
theorem raiseError (h : BlockInv b) {k : ErrClass} (hk : k ≠ .none) (c : Word) : BlockInv (b.raiseError k c) :=
  have hend : (b.raiseError k c).phase = .idle := Block.raiseError_phase b k c
  { h with
    req_matches := by
      rw [Block.expectedRequest_idle hend]
      cases hb : b.busy with
      | true => rw [Block.raiseError_busy b k c hb]
      | false =>
        have hidle := (b.busy_eq_false_iff).1 hb
        rw [Block.raiseError_idle b k c hidle]
        exact h.req_idle hidle
    not_done_and_err := by simp
    busy_clears := fun hb => absurd hend ((Block.busy_eq_true_iff _).1 hb)
    errClass_none := by simp [hk]
    errCode_zero := by simp
    progress_legal := Block.progressLegal_end h.progress_legal hend rfl
    vmismatch_after := fun hv => ⟨hend, (h.vmismatch_after hv).2⟩
    write_planned := by simp }

/-- A run ends without error (R332). -/
theorem finish (h : BlockInv b) (hb : b.busy = true) : BlockInv b.finish :=
  { h with
    req_matches := rfl
    not_done_and_err := by simp [(h.busy_clears hb).2]
    busy_clears := fun hf => absurd rfl ((Block.busy_eq_true_iff _).1 hf)
    progress_legal := Block.progressLegal_end h.progress_legal rfl rfl
    vmismatch_after := by simp [h.busy_no_vmismatch hb]
    write_planned := by simp }

/-! The moves inside a run -/

/-- A run enters its next phase: what has to hold are the request, the counters and the word of a Write that the phase
demands. -/
theorem advance (h : BlockInv b) (hb : b.busy = true) {q : Phase} {r : Option Request} {nr : BitVec 2} {nw : BitVec 1}
    {wr : Bool} {w : Word}
    (hreq : r = Block.expectedRequest
      { b with phase := q, req := r, nread := nr, nwrite := nw, wrote := wr, wout := w })
    (hprog : Block.progressLegal
      { b with phase := q, req := r, nread := nr, nwrite := nw, wrote := wr, wout := w } = true)
    (hplan : q = .write ∨ q = .readback → w = encodeRcw b.work ∧ b.changed = true) :
    BlockInv { b with phase := q, req := r, nread := nr, nwrite := nw, wrote := wr, wout := w } :=
  { h with
    req_matches := hreq
    busy_clears := fun _ => h.busy_clears hb
    progress_legal := hprog
    vmismatch_after := by simp [h.busy_no_vmismatch hb]
    write_planned := hplan }

/-- Before the Read nothing has been counted (R320, R333). -/
theorem progress_preflight (h : BlockInv b) (hp : b.phase = .query ∨ b.phase = .cancel ∨ b.phase = .config) :
    b.nread = 0 ∧ b.nwrite = 0 ∧ b.wrote = false := by
  have hprog := h.progress_legal
  rcases hp with hp | hp | hp <;> simpa [Block.progressLegal, hp, Block.progress] using hprog

theorem enterConfig (h : BlockInv b) (hp : b.phase = .query ∨ b.phase = .cancel) : BlockInv b.enterConfig := by
  obtain ⟨hr, hw, hwr⟩ := h.progress_preflight (hp.imp_right .inl)
  refine h.advance (by rcases hp with hp | hp <;> simp [Block.busy, hp]) rfl ?_ (by simp)
  simp [Block.progressLegal, Block.progress, hr, hw, hwr]

theorem enterCancel (h : BlockInv b) (hp : b.phase = .query) :
    BlockInv { b with phase := .cancel, req := some .cancel } := by
  obtain ⟨hr, hw, hwr⟩ := h.progress_preflight (.inl hp)
  refine h.advance (by simp [Block.busy, hp]) rfl ?_ (by simp)
  simp [Block.progressLegal, Block.progress, hr, hw, hwr]

theorem enterRead (h : BlockInv b) (hp : b.phase = .config) :
    BlockInv { b with phase := .read, nread := 1, req := some b.readRequest } := by
  obtain ⟨-, hw, hwr⟩ := h.progress_preflight (.inr (.inr hp))
  refine h.advance (by simp [Block.busy, hp]) rfl ?_ (by simp)
  simp [Block.progressLegal, Block.progress, hw, hwr]

theorem enterReadback (h : BlockInv b) (hp : b.phase = .write) :
    BlockInv { b with wrote := true, phase := .readback, nread := 2, req := some b.readRequest } := by
  have hprog := h.progress_legal
  simp only [Block.progressLegal, hp, Block.progress, decide_eq_true_eq, Prod.mk.injEq] at hprog
  refine h.advance (by simp [Block.busy, hp]) rfl ?_ fun _ => h.write_planned (.inl hp)
  simp [Block.progressLegal, Block.progress, hprog]

/-- The Write of the planned word follows a plan that changes a field (R327). -/
theorem enterWrite (h : BlockInv b) (hp : b.phase = .read) (hc : b.changed = true) :
    BlockInv { b with
      wout := encodeRcw b.work, phase := .write, nwrite := 1, req := some (b.writeRequest (encodeRcw b.work)) } := by
  have hprog := h.progress_legal
  simp only [Block.progressLegal, hp, Block.progress, decide_eq_true_eq, Prod.mk.injEq] at hprog
  refine h.advance (by simp [Block.busy, hp]) rfl ?_ fun _ => ⟨rfl, hc⟩
  simp [Block.progressLegal, Block.progress, hprog]

theorem afterPlan (h : BlockInv b) (hp : b.phase = .read) : BlockInv b.afterPlan := by
  unfold Block.afterPlan
  split
  · exact h.enterWrite hp ‹_›
  · exact h.finish ((b.busy_eq_true_iff).2 (by simp [hp]))

theorem onWordRead (h : BlockInv b) (hp : b.phase = .read) (r : Word) : BlockInv (b.onWordRead r) := by
  have hwf := decodeRcw_wf r
  rw [Block.onWordRead_eq_afterPlan]
  exact (((h.setRaw r).setCfg hwf).planFrom (by simp [hp]) hwf).afterPlan hp

theorem onWordReadBack (h : BlockInv b) (hp : b.phase = .readback) (r : Word) : BlockInv (b.onWordReadBack r) :=
  have hb : b.busy = true := (b.busy_eq_true_iff).2 (by simp [hp])
  (((h.setRdbk r).setCfg (decodeRcw_wf r)).finish hb).setVmismatch rfl (h.readback_wrote hp) _

/-! The effects of the agents -/

theorem commandEffect (h : BlockInv b) (hp : b.phase = .idle) (hd : b.done = false) (he : b.err = false) (i : Instr) :
    BlockInv (commandEffect i b) := by
  cases i with
  | nop => exact h.setDone hp he
  | decode => exact (h.setCfg (decodeRcw_wf _)).setDone hp he
  | encodeCfg => exact (h.setWout hp _).setDone hp he
  | encodeWork => exact (h.setWout hp _).setDone hp he
  | plan => exact (h.planFrom (by simp [hp]) h.cfg_wf).setDone hp he
  | lookupPhy | lookupBoot | lookupSrc | lookupXosc | lookupPll | lookupWait | lookupSpeed =>
    exact (h.setLkp (lookupWord_reserved ..)).setDone hp he
  | update => exact h.startRun hd he

theorem writeAddr (h : BlockInv b) (hp : b.phase = .idle) (v : Word) : BlockInv (b.writeAddr v) := by
  unfold Block.writeAddr
  split
  · exact h.setAddr hp _
  · exact h.raiseError (by decide) _

theorem writeTarget (h : BlockInv b) (v : Word) : BlockInv (b.writeTarget v) := by
  unfold Block.writeTarget
  split
  · rename_i hv
    exact h.setTarget (by rcases hv with rfl | rfl | rfl <;> decide)
  · exact h.raiseError (by decide) _

theorem hostWriteEffect {b' : Block} (h : BlockInv b) (e : HostWriteEffect b b') : BlockInv b' := by
  cases e with
  | none => exact h
  | dropped => exact h.dropWrite
  | command i hp => exact h.clearForTake.commandEffect hp rfl rfl i
  | illegal => exact h.clearForTake.raiseError (by decide) _
  | addr v hp => exact h.writeAddr hp v
  | target v => exact h.writeTarget v
  | div v hp => exact h.setDiv hp v
  | raw v => exact h.setRaw v
  | cfg0 v => exact h.setCfg (writeView0_wf h.cfg_wf v)
  | cfg1 v => exact h.setCfg (writeView1_wf h.cfg_wf v)

theorem responseEffect {p : Response} {b' : Block} (h : BlockInv b) (e : ResponseEffect b p b') : BlockInv b' := by
  cases e with
  | queryFailed | configFailed | readFailed | shortRead | writeFailed => exact h.raiseError (by decide) _
  | queryIdle hp => exact h.enterConfig (.inl hp)
  | queryBusy hp => exact h.enterCancel hp
  | cancelled hp => exact h.enterConfig (.inr hp)
  | configured hp => exact h.enterRead hp
  | wordRead _ _ _ _ hp => exact h.onWordRead hp _
  | written hp => exact h.enterReadback hp
  | wordReadBack _ _ _ _ hp => exact h.onWordReadBack hp _

theorem reset : BlockInv Block.reset where
  cfg_wf := rfl
  work_wf := rfl
  target_legal := .inr (.inl rfl)
  req_matches := rfl
  not_done_and_err := by decide
  busy_clears := by decide
  errClass_none := by decide
  errCode_zero := fun _ => rfl
  changed_dmask := rfl
  dmask_delta := .inl rfl
  dmask_bits := BitVec.zero_and
  dold_legal := fun f => by cases f <;> rfl
  dnew_legal := fun f => by cases f <;> rfl
  lkp_bits := BitVec.zero_and
  progress_legal := rfl
  vmismatch_after := by decide
  write_planned := by decide

end BlockInv

/-! The invariant of every step -/

theorem Inv.answer {s t : State} {p : Response} (h : Inv s) (he : answer p s = .next t) : Inv t := by
  obtain ⟨r, b, -, -, hb, rfl⟩ := answer_next_iff.1 he
  exact ⟨h.block.responseEffect (Block.onResponse_effect hb), Memory.wf_settle _ _ _ h.eeprom⟩

theorem Inv.hostTurn {s t : State} (h : Inv s) (he : hostTurn s = .next t) : Inv t := by
  obtain ⟨htr, -, hb | ⟨_, _, _, -, -, -, hw⟩⟩ := hostTurn_cases he
  · exact ⟨hb ▸ h.block, htr ▸ h.eeprom⟩
  · exact ⟨h.block.hostWriteEffect hw, htr ▸ h.eeprom⟩

theorem Inv.takeTurn {s t : State} {u : Turn} (h : Inv s) (he : takeTurn u s = .next t) : Inv t := by
  cases u with
  | host => exact h.hostTurn he
  | answer p => exact h.answer he
  | environment =>
    obtain ⟨r, -, ha⟩ := environmentAnswer_cases he
    have hdraw : Inv { s with transport := { s.transport with draws := s.transport.draws + 1 } } :=
      ⟨h.block, h.eeprom⟩
    exact hdraw.answer ha
  | lateAnswer i p =>
    obtain ⟨rs, rfl⟩ := lateAnswer_cases he
    exact ⟨h.block, h.eeprom⟩
  | reset =>
    cases he
    exact ⟨BlockInv.reset, Memory.wf_abandon _ _ h.eeprom⟩
  | eepromChange addr off bytes =>
    cases he
    exact ⟨h.block, Memory.wf_writeBytes _ _ _ _ h.eeprom⟩

/-- Settles O5: each kind of turn keeps the invariant, since each effect of a host write and each reaction to a response
keeps the block's part. -/
theorem stepKeepsTheInvariant : Obligations.StepKeepsTheInvariant := by
  intro s t h he
  rcases step_cases he with ⟨-, rfl⟩ | ⟨u, ts, -, hu⟩
  · exact h
  · have hrest : Inv { s with turns := ts } := ⟨h.block, h.eeprom⟩
    exact hrest.takeTurn hu

/-- Settles O4: the reset block meets the block's invariant, and no EEPROM byte is recorded. -/
theorem resetStateMeetsTheInvariant : Obligations.ResetStateMeetsTheInvariant :=
  ⟨BlockInv.reset, Memory.wf_reset⟩

end Sys2Proof.Machine
end

section
/-! What the invariant and the idle phase exclude: no step under the invariant faults, and only the UPDATE word leaves
IDLE (10_state.md R36, R37). -/

namespace Sys2Proof.Machine

/-! No fault (R37, R119) -/

theorem Block.onQuery_isSome (b : Block) (p : Response) : (b.onQuery p).isSome = Request.query.admits p := by
  cases p <;> rfl

theorem Block.onCancel_isSome (b : Block) (p : Response) : (b.onCancel p).isSome = Request.cancel.admits p := by
  cases p <;> rfl

theorem Block.onConfig_isSome (b : Block) (d : Word) (p : Response) :
    (b.onConfig p).isSome = (Request.configure d).admits p := by
  cases p <;> rfl

theorem Block.onRead_isSome (b : Block) {p : Response} (h : b.readRequest.admits p = true) :
    (b.onRead p).isSome = true := by
  cases p with
  | data | err => rfl
  | idle | busy | ack | ok => cases h

theorem Block.onWrite_isSome (b : Block) (w : Word) (p : Response) :
    (b.onWrite p).isSome = (b.writeRequest w).admits p := by
  cases p <;> rfl

theorem Block.onReadback_isSome (b : Block) {p : Response} (h : b.readRequest.admits p = true) :
    (b.onReadback p).isSome = true := by
  cases p with
  | data | err => rfl
  | idle | busy | ack | ok => cases h

/-- Where PHASE names the outstanding request, every response it admits has a transition. -/
theorem Block.onResponse_isSome {b : Block} {r : Request} {p : Response} (hr : b.expectedRequest = some r)
    (ha : r.admits p = true) : (b.onResponse p).isSome = true := by
  cases hp : b.phase <;> simp only [Block.expectedRequest, hp, Option.some.injEq, reduceCtorEq] at hr <;>
    subst hr <;> simp only [Block.onResponse, hp]
  case query => rw [b.onQuery_isSome, ha]
  case cancel => rw [b.onCancel_isSome, ha]
  case config => rw [b.onConfig_isSome, ha]
  case read => exact b.onRead_isSome ha
  case write => rw [b.onWrite_isSome, ha]
  case readback => exact b.onReadback_isSome ha

theorem answer_no_fault {s : State} (h : s.block.req = s.block.expectedRequest) (p : Response) (r : Fault) :
    answer p s ≠ .fault r := by
  intro he
  unfold answer at he
  split at he
  · cases he
  · rename_i q hq
    split at he
    · rename_i ha
      obtain ⟨b, hb⟩ := Option.isSome_iff_exists.1 (Block.onResponse_isSome (h ▸ hq) ha)
      rw [hb] at he
      cases he
    · cases he

theorem environmentAnswer_no_fault {s : State} (h : s.block.req = s.block.expectedRequest) (r : Fault) :
    environmentAnswer s ≠ .fault r := by
  intro he
  unfold environmentAnswer at he
  split at he
  · cases he
  · refine answer_no_fault ?_ _ r he
    exact h

theorem lateAnswer_no_fault (i : Nat) (p : Response) (s : State) (r : Fault) : lateAnswer i p s ≠ .fault r := by
  intro he
  unfold lateAnswer at he
  split at he
  · cases he
  · split at he <;> cases he

theorem takeTurn_no_fault {s : State} (h : s.block.req = s.block.expectedRequest) (u : Turn) (r : Fault) :
    takeTurn u s ≠ .fault r := by
  cases u with
  | host => exact hostTurn_no_fault s r
  | answer p => exact answer_no_fault h p r
  | environment => exact environmentAnswer_no_fault h r
  | lateAnswer i p => exact lateAnswer_no_fault i p s r
  | reset | eepromChange => exact nofun

/-- Settles O6: PHASE names the outstanding request, so every admitted response has a transition, and no other turn can
fault. -/
theorem invariantStatesNeverFault : Obligations.InvariantStatesNeverFault := by
  intro s r h he
  unfold step at he
  split at he
  · cases he
  · refine takeTurn_no_fault ?_ _ r he
    exact h.block.req_matches

/-! Leaving IDLE (R36) -/

theorem hostWrite_of_regAt {off : BitVec 8} {r : Reg} (h : regAt off = some r) (v : Word) (s : State) :
    hostWrite off v s = writeReg r v s := by simp only [hostWrite, h]

theorem hostWrite_reserved {off : BitVec 8} (h : regAt off = none) (v : Word) (s : State) :
    hostWrite off v s = .next s := by simp only [hostWrite, h]

/-- Only the last row of the opcode map is UPDATE's, and it matches one word (R171). -/
theorem eq_of_decode_update {v : Word} (h : decode v = .ok .update) : v = 5 := by
  unfold decode at h
  split at h
  · rename_i r hfind
    have hmem := List.mem_of_find?_eq_some hfind
    have haccepts := List.find?_some hfind
    simp only [opcodeRows, List.mem_cons, List.not_mem_nil, or_false] at hmem
    rcases hmem with rfl | rfl | rfl | rfl | rfl | rfl | rfl | rfl | rfl | rfl | rfl | rfl | rfl <;> cases h
    have hall : v &&& 0xFFFFFFFF#32 = v := BitVec.and_allOnes
    simpa [OpcodeRow.accepts, hall] using haccepts
  · cases h

/-- Every command but UPDATE leaves PHASE (R203). -/
theorem commandEffect_phase {i : Instr} (hi : i ≠ .update) (b : Block) : (commandEffect i b).phase = b.phase := by
  cases i with
  | update => exact absurd rfl hi
  | _ => rfl

theorem writeAddr_idle {b : Block} (h : b.phase = .idle) (v : Word) : (b.writeAddr v).phase = .idle := by
  unfold Block.writeAddr; split
  · exact h
  · exact Block.raiseError_phase ..

theorem writeTarget_idle {b : Block} (h : b.phase = .idle) (v : Word) : (b.writeTarget v).phase = .idle := by
  unfold Block.writeTarget; split
  · exact h
  · exact Block.raiseError_phase ..

theorem writeUnlessBusy_stays_idle {f : Block → Block} {s t : State} (h : s.block.phase = .idle)
    (he : writeUnlessBusy f s = .next t) (hf : (f s.block).phase = .idle) : t.block.phase = .idle := by
  rw [writeUnlessBusy_idle h] at he
  cases he
  exact hf

/-- A write to any register but CMD keeps IDLE (R112). -/
theorem writeReg_stays_idle {r : Reg} {v : Word} {s t : State} (hr : r ≠ .cmd) (h : s.block.phase = .idle)
    (he : writeReg r v s = .next t) : t.block.phase = .idle := by
  cases r <;> simp only [writeReg] at he
  case cmd => exact absurd rfl hr
  case addr => exact writeUnlessBusy_stays_idle h he (writeAddr_idle h v)
  case target => exact writeUnlessBusy_stays_idle h he (writeTarget_idle h v)
  case div | raw | cfg0 | cfg1 => exact writeUnlessBusy_stays_idle h he h
  case status | errcode | work0 | work1 | wout | rdbk | dmask | lkp | dold | dnew => cases he; exact h

/-- A CMD write that leaves IDLE wrote the UPDATE word. -/
theorem writeCmd_leaves_idle {v : Word} {s t : State} (h : s.block.phase = .idle) (he : writeCmd v s = .next t)
    (ht : t.block.phase ≠ .idle) : v = 5 ∧ t.block.phase = .query := by
  rw [writeCmd_eq_takeCommand, takeCommand_idle h] at he
  cases he
  cases hd : decode v with
  | error e => simp [hd] at ht
  | ok i =>
    simp only [hd] at ht ⊢
    by_cases hi : i = .update
    · subst hi
      exact ⟨eq_of_decode_update hd, rfl⟩
    · exact absurd ((commandEffect_phase hi s.block.clearForTake).trans h) ht

/-- A host write that leaves IDLE wrote the UPDATE word to CMD: a write to another register keeps PHASE. -/
theorem hostWrite_leaves_idle {off : BitVec 8} {v : Word} {s t : State} (h : s.block.phase = .idle)
    (he : hostWrite off v s = .next t) (ht : t.block.phase ≠ .idle) :
    off = 0x00 ∧ v = 5 ∧ t.block.phase = .query := by
  cases hoff : regAt off with
  | none =>
    rw [hostWrite_reserved hoff] at he
    cases he
    exact absurd h ht
  | some r =>
    rw [hostWrite_of_regAt hoff] at he
    by_cases hr : r = .cmd
    · subst hr
      exact ⟨offset_of_regAt hoff, writeCmd_leaves_idle h he ht⟩
    · exact absurd (writeReg_stays_idle hr h he) ht

/-- Without an outstanding request no response is given a step, so a turn that leaves IDLE is the host's (R36, R121). -/
theorem takeTurn_leaves_idle {u : Turn} {s t : State} (h : s.block.phase = .idle) (hr : s.block.req = none)
    (he : takeTurn u s = .next t) (ht : t.block.phase ≠ .idle) :
    u = .host ∧ t.block.phase = .query ∧ ∃ ops, s.host.program = .write 0x00 32 5 :: ops := by
  cases u with
  | host =>
    obtain ⟨-, -, hb | ⟨off, v, ops, hprog, -, hw, -⟩⟩ := hostTurn_cases he
    · exact absurd (hb ▸ h) ht
    · obtain ⟨rfl, rfl, hq⟩ := hostWrite_leaves_idle (s := { s with host := { s.host with program := ops } }) h hw ht
      exact ⟨rfl, hq, ops, hprog⟩
  | answer p =>
    obtain ⟨r, -, hsome, -⟩ := answer_next_iff.1 he
    rw [hr] at hsome; cases hsome
  | environment =>
    obtain ⟨r, hsome, -⟩ := environmentAnswer_cases he
    rw [hr] at hsome; cases hsome
  | lateAnswer i p =>
    obtain ⟨_, rfl⟩ := lateAnswer_cases he
    exact absurd h ht
  | reset => cases he; exact absurd rfl ht
  | eepromChange => cases he; exact absurd h ht

/-- Settles O7: the turn that leaves IDLE is the host's, and of its writes only that of the UPDATE word to CMD does. -/
theorem onlyUpdateLeavesIdle : Obligations.OnlyUpdateLeavesIdle := by
  intro s t h hr he ht
  rcases step_cases he with ⟨-, rfl⟩ | ⟨u, ts, hts, hu⟩
  · exact absurd h ht
  · obtain ⟨rfl, hq, ops, hprog⟩ := takeTurn_leaves_idle (s := { s with turns := ts }) h hr hu ht
    exact ⟨hq, ts, ops, hts, hprog⟩

end Sys2Proof.Machine
end

section
/-! Two UPDATE runs under the same responses (10_state.md R66): a simulation between two blocks that may differ in what
earlier commands or runs left, kept by every reaction to a response. -/

namespace Sys2Proof.Machine

/-- Two runs, begun in the blocks `a₁` and `a₂` and now in `b₁` and `b₂`, agree: on PHASE, REQ, STATUS, ERRCODE, DMASK
and the registers a run depends on, they have treated every data register alike, and from the Write to the read-back
they hold the same WOUT, which the read-back is compared with. -/
structure RunsAgree (a₁ a₂ b₁ b₂ : Block) : Prop where
  phase : b₁.phase = b₂.phase
  req : b₁.req = b₂.req
  done : b₁.done = b₂.done
  err : b₁.err = b₂.err
  changed : b₁.changed = b₂.changed
  wrote : b₁.wrote = b₂.wrote
  vmismatch : b₁.vmismatch = b₂.vmismatch
  ovr : b₁.ovr = b₂.ovr
  errClass : b₁.errClass = b₂.errClass
  nread : b₁.nread = b₂.nread
  nwrite : b₁.nwrite = b₂.nwrite
  errCode : b₁.errCode = b₂.errCode
  addr : b₁.addr = b₂.addr
  target : b₁.target = b₂.target
  div : b₁.div = b₂.div
  dmask : b₁.dmask = b₂.dmask
  raw : treatedAlike a₁.raw a₂.raw b₁.raw b₂.raw
  cfg : treatedAlike a₁.cfg a₂.cfg b₁.cfg b₂.cfg
  work : treatedAlike a₁.work a₂.work b₁.work b₂.work
  wout : treatedAlike a₁.wout a₂.wout b₁.wout b₂.wout
  rdbk : treatedAlike a₁.rdbk a₂.rdbk b₁.rdbk b₂.rdbk
  dold : treatedAlike a₁.dold a₂.dold b₁.dold b₂.dold
  dnew : treatedAlike a₁.dnew a₂.dnew b₁.dnew b₂.dnew
  wout_written : b₁.phase = .write ∨ b₁.phase = .readback → b₁.wout = b₂.wout

namespace RunsAgree

variable {a₁ a₂ b₁ b₂ : Block}

theorem busy (h : RunsAgree a₁ a₂ b₁ b₂) : b₁.busy = b₂.busy := by rw [Block.busy, Block.busy, h.phase]

theorem statusWord (h : RunsAgree a₁ a₂ b₁ b₂) : b₁.statusWord = b₂.statusWord := by
  simp only [Block.statusWord, h.busy, h.phase, h.done, h.err, h.changed, h.wrote, h.vmismatch, h.ovr, h.errClass,
    h.nread, h.nwrite]

/-- The take of UPDATE in two blocks that agree on ADDR, TARGET and DIV (R201, R320). -/
theorem start (haddr : a₁.addr = a₂.addr) (htarget : a₁.target = a₂.target) (hdiv : a₁.div = a₂.div) :
    RunsAgree a₁ a₂ a₁.clearForTake.startRun a₂.clearForTake.startRun where
  phase := rfl
  req := rfl
  done := rfl
  err := rfl
  changed := rfl
  wrote := rfl
  vmismatch := rfl
  ovr := rfl
  errClass := rfl
  nread := rfl
  nwrite := rfl
  errCode := rfl
  addr := haddr
  target := htarget
  div := hdiv
  dmask := rfl
  raw := .inr ⟨rfl, rfl⟩
  cfg := .inr ⟨rfl, rfl⟩
  work := .inr ⟨rfl, rfl⟩
  wout := .inr ⟨rfl, rfl⟩
  rdbk := .inr ⟨rfl, rfl⟩
  dold := .inr ⟨rfl, rfl⟩
  dnew := .inr ⟨rfl, rfl⟩
  wout_written := by simp [Block.startRun]

theorem readRequest (h : RunsAgree a₁ a₂ b₁ b₂) : b₁.readRequest = b₂.readRequest := by
  rw [Block.readRequest, Block.readRequest, h.addr]

theorem raiseError (h : RunsAgree a₁ a₂ b₁ b₂) (k : ErrClass) (c : Word) :
    RunsAgree a₁ a₂ (b₁.raiseError k c) (b₂.raiseError k c) :=
  { h with
    phase := by simp
    req := by simp only [Block.raiseError, h.busy, h.req]
    done := rfl
    err := rfl
    errClass := rfl
    errCode := rfl
    wout_written := by simp }

theorem enterConfig (h : RunsAgree a₁ a₂ b₁ b₂) : RunsAgree a₁ a₂ b₁.enterConfig b₂.enterConfig :=
  { h with
    phase := rfl
    req := by simp only [Block.enterConfig, h.div]
    wout_written := by simp [Block.enterConfig] }

theorem enterCancel (h : RunsAgree a₁ a₂ b₁ b₂) :
    RunsAgree a₁ a₂ { b₁ with phase := .cancel, req := some .cancel }
      { b₂ with phase := .cancel, req := some .cancel } :=
  { h with phase := rfl, req := rfl, wout_written := by simp }

theorem enterRead (h : RunsAgree a₁ a₂ b₁ b₂) :
    RunsAgree a₁ a₂ { b₁ with phase := .read, nread := 1, req := some b₁.readRequest }
      { b₂ with phase := .read, nread := 1, req := some b₂.readRequest } :=
  { h with phase := rfl, nread := rfl, req := congrArg some h.readRequest, wout_written := by simp }

theorem enterReadback (h : RunsAgree a₁ a₂ b₁ b₂) (hp : b₁.phase = .write) :
    RunsAgree a₁ a₂ { b₁ with wrote := true, phase := .readback, nread := 2, req := some b₁.readRequest }
      { b₂ with wrote := true, phase := .readback, nread := 2, req := some b₂.readRequest } :=
  { h with
    wrote := rfl
    phase := rfl
    nread := rfl
    req := congrArg some h.readRequest
    wout_written := fun _ => h.wout_written (.inl hp) }

/-- The Write of the planned word, where both blocks hold the same plan (R327). -/
theorem enterWrite (h : RunsAgree a₁ a₂ b₁ b₂) (hw : b₁.work = b₂.work) :
    RunsAgree a₁ a₂
      { b₁ with
        wout := encodeRcw b₁.work, phase := .write, nwrite := 1, req := some (b₁.writeRequest (encodeRcw b₁.work)) }
      { b₂ with
        wout := encodeRcw b₂.work, phase := .write, nwrite := 1, req := some (b₂.writeRequest (encodeRcw b₂.work)) } :=
  have hwout : encodeRcw b₁.work = encodeRcw b₂.work := congrArg encodeRcw hw
  { h with
    phase := rfl
    nwrite := rfl
    req := by simp only [Block.writeRequest, hwout, h.addr]
    wout := .inl hwout
    wout_written := fun _ => hwout }

theorem finish (h : RunsAgree a₁ a₂ b₁ b₂) : RunsAgree a₁ a₂ b₁.finish b₂.finish :=
  { h with phase := rfl, req := rfl, done := rfl, wout_written := by simp }

/-- The word read and the plan step on it, which depend on TARGET alone (R326, R327). -/
theorem planRead (h : RunsAgree a₁ a₂ b₁ b₂) (hp : b₁.phase = .read) (r : Word) :
    RunsAgree a₁ a₂ ({ b₁ with raw := r, cfg := decodeRcw r }.planFrom (decodeRcw r))
      ({ b₂ with raw := r, cfg := decodeRcw r }.planFrom (decodeRcw r)) :=
  { h with
    raw := .inl rfl
    cfg := .inl rfl
    work := .inl (by simp only [Block.planFrom, h.target])
    dold := .inl rfl
    dnew := .inl (by simp only [Block.planFrom, h.target])
    dmask := by simp only [Block.planFrom, h.target]
    changed := by simp only [Block.planFrom, h.target]
    wout_written := by simp [Block.planFrom, hp] }

theorem afterPlan (h : RunsAgree a₁ a₂ b₁ b₂) (hw : b₁.work = b₂.work) :
    RunsAgree a₁ a₂ b₁.afterPlan b₂.afterPlan := by
  unfold Block.afterPlan
  by_cases hc : b₁.changed = true
  · rw [if_pos hc, if_pos (h.changed.symm.trans hc)]
    exact h.enterWrite hw
  · rw [if_neg hc, if_neg (h.changed ▸ hc)]
    exact h.finish

theorem onWordRead (h : RunsAgree a₁ a₂ b₁ b₂) (hp : b₁.phase = .read) (r : Word) :
    RunsAgree a₁ a₂ (b₁.onWordRead r) (b₂.onWordRead r) := by
  rw [Block.onWordRead_eq_afterPlan, Block.onWordRead_eq_afterPlan]
  exact (h.planRead hp r).afterPlan (by simp only [Block.planFrom, h.target])

theorem onWordReadBack (h : RunsAgree a₁ a₂ b₁ b₂) (hp : b₁.phase = .readback) (r : Word) :
    RunsAgree a₁ a₂ (b₁.onWordReadBack r) (b₂.onWordReadBack r) :=
  have hread : RunsAgree a₁ a₂ { b₁ with rdbk := r, cfg := decodeRcw r, vmismatch := r != b₁.wout }
      { b₂ with rdbk := r, cfg := decodeRcw r, vmismatch := r != b₂.wout } :=
    { h with
      rdbk := .inl rfl
      cfg := .inl rfl
      vmismatch := by simp only [h.wout_written (.inr hp)] }
  hread.finish

theorem onData (h : RunsAgree a₁ a₂ b₁ b₂) {f₁ f₂ : Word → Block} (hf : ∀ r, RunsAgree a₁ a₂ (f₁ r) (f₂ r))
    (bs : List Byte) : RunsAgree a₁ a₂ (b₁.onData f₁ bs) (b₂.onData f₂ bs) := by
  unfold Block.onData
  split
  · exact hf _
  · exact h.raiseError _ _

/-- Every response meets the same transition in both blocks, and they still agree after it. -/
theorem onResponse (h : RunsAgree a₁ a₂ b₁ b₂) (p : Response) :
    Option.Rel (RunsAgree a₁ a₂) (b₁.onResponse p) (b₂.onResponse p) := by
  unfold Block.onResponse
  rw [← h.phase]
  cases hp : b₁.phase with
  | idle => exact .none
  | query =>
    cases p with
    | err c => exact .some (h.raiseError _ c)
    | idle => exact .some h.enterConfig
    | busy => exact .some h.enterCancel
    | ack | ok | data => exact .none
  | cancel =>
    cases p with
    | ack => exact .some h.enterConfig
    | idle | busy | ok | data | err => exact .none
  | config =>
    cases p with
    | err c => exact .some (h.raiseError _ c)
    | ok => exact .some h.enterRead
    | idle | busy | ack | data => exact .none
  | read =>
    cases p with
    | err c => exact .some (h.raiseError _ c)
    | data bs => exact .some (h.onData (h.onWordRead hp) bs)
    | idle | busy | ack | ok => exact .none
  | write =>
    cases p with
    | err c => exact .some (h.raiseError _ c)
    | ok => exact .some (h.enterReadback hp)
    | idle | busy | ack | data => exact .none
  | readback =>
    cases p with
    | err c => exact .some (h.raiseError _ c)
    | data bs => exact .some (h.onData (h.onWordReadBack hp) bs)
    | idle | busy | ack | ok => exact .none

end RunsAgree

/-! The runs of whole states -/

/-- The states of two runs agree: their blocks do and their transports are the same. -/
structure StatesAgree (a₁ a₂ : Block) (s₁ s₂ : State) : Prop where
  block : RunsAgree a₁ a₂ s₁.block s₂.block
  transport : s₁.transport = s₂.transport

/-- Both runs take an answer and agree after it, or neither takes it. -/
theorem StatesAgree.answer {a₁ a₂ : Block} {s₁ s₂ : State} (h : StatesAgree a₁ a₂ s₁ s₂) (p : Response) :
    (∃ t₁ t₂, answer p s₁ = .next t₁ ∧ answer p s₂ = .next t₂ ∧ StatesAgree a₁ a₂ t₁ t₂) ∨
      (∀ t, answer p s₁ ≠ .next t) ∧ ∀ t, answer p s₂ ≠ .next t := by
  unfold Machine.answer
  rw [← h.block.req, ← h.transport]
  cases s₁.block.req with
  | none => exact .inr ⟨fun _ => nofun, fun _ => nofun⟩
  | some r =>
    simp only
    split
    · have hrel := h.block.onResponse p
      generalize s₁.block.onResponse p = o₁, s₂.block.onResponse p = o₂ at hrel ⊢
      cases hrel with
      | none => exact .inr ⟨fun _ => nofun, fun _ => nofun⟩
      | some hb => exact .inl ⟨_, _, rfl, rfl, hb, rfl⟩
    · exact .inr ⟨fun _ => nofun, fun _ => nofun⟩

theorem requestsPlaced_cons_next {p : Response} {s t : State} (h : answer p s = .next t) (ps : List Response) :
    requestsPlaced (p :: ps) s = s.block.req.toList ++ requestsPlaced ps t := by
  simp only [requestsPlaced, h]

theorem requestsPlaced_cons_stop {p : Response} {s : State} (h : ∀ t, answer p s ≠ .next t) (ps : List Response) :
    requestsPlaced (p :: ps) s = s.block.req.toList := by
  unfold requestsPlaced
  split
  · rename_i t ht
    exact absurd ht (h t)
  · exact List.append_nil _

theorem runTurns_cons_next {u : Turn} {us : List Turn} {s t : State} (h : runTurns (u :: us) s = .next t) :
    ∃ m, takeTurn u s = .next m ∧ runTurns us m = .next t := by
  unfold runTurns at h
  split at h
  · exact ⟨_, by assumption, h⟩
  · cases h
  · cases h

/-- Runs that agree place the same requests under the same answers. -/
theorem StatesAgree.requestsPlaced {a₁ a₂ : Block} (ps : List Response) :
    ∀ {s₁ s₂ : State}, StatesAgree a₁ a₂ s₁ s₂ → requestsPlaced ps s₁ = requestsPlaced ps s₂ := by
  induction ps with
  | nil => exact fun h => congrArg Option.toList h.block.req
  | cons p ps ih =>
    intro s₁ s₂ h
    rcases h.answer p with ⟨t₁, t₂, h₁, h₂, ht⟩ | ⟨h₁, h₂⟩
    · rw [requestsPlaced_cons_next h₁, requestsPlaced_cons_next h₂, h.block.req, ih ht]
    · rw [requestsPlaced_cons_stop h₁, requestsPlaced_cons_stop h₂, h.block.req]

/-- Runs that agree still do after a list of answers that both take. -/
theorem StatesAgree.runTurns {a₁ a₂ : Block} {t₁ t₂ : State} (ps : List Response) :
    ∀ {s₁ s₂ : State}, StatesAgree a₁ a₂ s₁ s₂ → runTurns (ps.map .answer) s₁ = .next t₁ →
      runTurns (ps.map .answer) s₂ = .next t₂ → StatesAgree a₁ a₂ t₁ t₂ := by
  induction ps with
  | nil => rintro s₁ s₂ h ⟨⟩ ⟨⟩; exact h
  | cons p ps ih =>
    intro s₁ s₂ h hr₁ hr₂
    obtain ⟨m₁, hm₁, hrest₁⟩ := runTurns_cons_next hr₁
    obtain ⟨m₂, hm₂, hrest₂⟩ := runTurns_cons_next hr₂
    rcases h.answer p with ⟨n₁, n₂, h₁, h₂, hn⟩ | ⟨h₁, -⟩
    · cases hm₁.symm.trans h₁
      cases hm₂.symm.trans h₂
      exact ih hn hrest₁ hrest₂
    · exact absurd hm₁ (h₁ m₁)

/-- Settles O45: the takes of UPDATE make the two states agree, and agreeing states place the same requests and stay in
agreement under the same answers. -/
theorem runOutcomeIgnoresEarlierValues : Obligations.RunOutcomeIgnoresEarlierValues := by
  intro s₁ s₂ u₁ u₂ t₁ t₂ ps hp₁ hp₂ haddr htarget hdiv htransport hu₁ hu₂
  rw [exec_idle _ hp₁] at hu₁
  rw [exec_idle _ hp₂] at hu₂
  cases hu₁
  cases hu₂
  have hstart : StatesAgree s₁.block s₂.block
      { s₁ with block := commandEffect .update s₁.block.clearForTake }
      { s₂ with block := commandEffect .update s₂.block.clearForTake } :=
    ⟨.start haddr htarget hdiv, htransport⟩
  refine ⟨hstart.requestsPlaced ps, fun hr₁ hr₂ => ?_⟩
  obtain ⟨h, htr⟩ := hstart.runTurns ps hr₁ hr₂
  exact ⟨h.phase, h.req, h.statusWord, h.errCode, h.dmask, htr, h.raw, h.cfg, h.work, h.wout, h.rdbk, h.dold, h.dnew⟩

end Sys2Proof.Machine
end

section
/-! The registers of the block (10_state.md): the reset table, the views a host reads, and what a host write to each
register does while no run is in progress. -/

namespace Sys2Proof.Machine

/-! Reset (R65, R450, R452) -/

theorem reset_eq_resetTable : Block.reset = Block.resetTable := rfl

theorem resetTable_statusWord : Block.resetTable.statusWord = 0 := by
  simp only [Block.resetTable, Block.statusWord, Block.busy]
  decide

/-- Settles O1: the model's reset block is the table's row by row. -/
theorem resetBlockHoldsTheTableValues : Obligations.ResetBlockHoldsTheTableValues :=
  ⟨reset_eq_resetTable, resetTable_statusWord, by decide, by decide⟩

/-- A reset leaves the state of the bus (log entry 8). -/
theorem Transport.abandon_bus (t : Transport) (q : Option Request) : (t.abandon q).bus = t.bus := by
  cases q with
  | none => rfl
  | some r => cases r <;> rfl

/-- Settles O2: the step is the reset event, and the only bytes it changes are those an abandoned Write was storing
to. -/
theorem resetEventRestoresTheBlock : Obligations.ResetEventRestoresTheBlock :=
  fun s ts => ⟨resetEvent { s with turns := ts }, rfl, reset_eq_resetTable, resetTable_statusWord, rfl, rfl,
    Transport.abandon_bus _ _, fun a ha => Transport.abandon_read _ _ a ha⟩

/-! The words a host reads (R39, R54, R55) -/

/-- A field of a word, compared with a value bit by bit (R6). -/
theorem extractLsb'_eq_iff {w : Word} {lo n : Nat} {v : BitVec n} :
    w.extractLsb' lo n = v ↔ ∀ i < n, w.getLsbD (lo + i) = v.getLsbD i := by
  rw [BitVec.eq_of_getLsbD_eq_iff]
  refine forall₂_congr fun i hi => ?_
  rw [BitVec.getLsbD_extractLsb', decide_eq_true hi, Bool.true_and]

theorem Block.statusWord_flags (b : Block) :
    b.statusWord.getLsbD 0 = b.busy ∧ b.statusWord.getLsbD 1 = b.done ∧ b.statusWord.getLsbD 2 = b.err ∧
      b.statusWord.getLsbD 3 = b.changed ∧ b.statusWord.getLsbD 4 = b.wrote ∧
      b.statusWord.getLsbD 5 = b.vmismatch ∧ b.statusWord.getLsbD 6 = b.ovr ∧ b.statusWord.getLsbD 7 = false ∧
      b.statusWord.getLsbD 15 = false := by
  simp only [Block.statusWord, BitVec.getLsbD_append]
  simp

theorem Block.statusWord_fields (b : Block) :
    b.statusWord.extractLsb' 8 4 = b.errClass.code ∧ b.statusWord.extractLsb' 12 3 = b.phase.code ∧
      b.statusWord.extractLsb' 16 2 = b.nread ∧ b.statusWord.extractLsb' 18 1 = b.nwrite ∧
      b.statusWord.extractLsb' 19 13 = 0 := by
  simp only [extractLsb'_eq_iff, Block.statusWord, BitVec.getLsbD_append]
  refine ⟨?_, ?_, ?_, ?_, ?_⟩ <;> grind

/-- Settles O33: the word's flags and fields, which are its places in the concatenation of R39. -/
theorem statusWordHasTheRulesFields : Obligations.StatusWordHasTheRulesFields := by
  refine ⟨rfl, rfl, fun b => ?_⟩
  obtain ⟨hbusy, hdone, herr, hchanged, hwrote, hvmismatch, hovr, hbit7, hbit15⟩ := b.statusWord_flags
  obtain ⟨hclass, hphase, hnread, hnwrite, hhigh⟩ := b.statusWord_fields
  simp only [Block.hostValue_status]
  exact ⟨hbusy, hdone, herr, hchanged, hwrote, hvmismatch, hovr, hbit7, hclass, hphase, hbit15, hnread, hnwrite, hhigh⟩

theorem view0_fields (c : Cfg) :
    (view0 c).extractLsb' 0 2 = c.phy ∧ (view0 c).extractLsb' 2 3 = c.boot ∧ (view0 c).extractLsb' 5 1 = c.src ∧
      (view0 c).extractLsb' 6 1 = c.xosc ∧ (view0 c).extractLsb' 7 1 = c.pll ∧
      (view0 c).extractLsb' 8 2 = (variantOf c.boot).tag ∧ (view0 c).extractLsb' 10 22 = 0 := by
  simp only [extractLsb'_eq_iff, view0, BitVec.getLsbD_setWidth, BitVec.getLsbD_append]
  refine ⟨?_, ?_, ?_, ?_, ?_, ?_, ?_⟩ <;> grind

/-- A value zero-extended to a word stands in its low bits, and the bits above are 0. -/
theorem setWidth_fields {n m : Nat} (h : n + m = 32) (v : BitVec n) :
    (v.setWidth 32).extractLsb' 0 n = v ∧ (v.setWidth 32).extractLsb' n m = 0#m := by
  simp only [extractLsb'_eq_iff, BitVec.getLsbD_setWidth]
  refine ⟨?_, ?_⟩ <;> grind

/-- Two adjacent fields zero-extended to a word (R55). -/
theorem setWidth_append_fields {n k m : Nat} (h : n + k + m = 32) (hi : BitVec k) (lo : BitVec n) :
    ((hi ++ lo).setWidth 32).extractLsb' 0 n = lo ∧ ((hi ++ lo).setWidth 32).extractLsb' n k = hi ∧
      ((hi ++ lo).setWidth 32).extractLsb' (n + k) m = 0#m := by
  simp only [extractLsb'_eq_iff, BitVec.getLsbD_setWidth, BitVec.getLsbD_append]
  refine ⟨?_, ?_, ?_⟩ <;> grind

/-- Settles O34: each view is a concatenation, whose fields are read at their places. -/
theorem configurationViewsHaveTheRulesFields : Obligations.ConfigurationViewsHaveTheRulesFields := by
  refine ⟨by decide, rfl, fun b => ⟨b.hostValue_cfg0, b.hostValue_cfg1, b.hostValue_work0, b.hostValue_work1⟩,
    view0_fields, fun c => ?_⟩
  obtain ⟨_, _, _, _, _, pay⟩ := c
  cases pay with
  | qspi q => exact setWidth_fields (by decide) q
  | sd wait speed => exact setWidth_append_fields (by decide) speed wait
  | mmc wait mode => exact setWidth_append_fields (by decide) mode wait
  | rsvd => rfl

/-! Host writes outside a run (R50 to R57, R64, R112) -/

theorem OnlyBlock.withBlock (s : State) (b : Block) : OnlyBlock s { s with block := b } := ⟨rfl, rfl, rfl, fun _ => rfl⟩

theorem Block.writeAddr_of_le {b : Block} {v : Word} (h : v ≤ 0x7F) :
    b.writeAddr v = { b with addr := v.setWidth 7 } := if_pos h

theorem Block.writeAddr_of_lt {b : Block} {v : Word} (h : 0x7F < v) :
    b.writeAddr v = b.raiseError .invalidAddress 0 := if_neg (Nat.not_le.2 h)

/-- A value within 7 bits is read back from ADDR as written. -/
theorem setWidth_setWidth_of_le {v : Word} (h : v ≤ 0x7F) : (v.setWidth 7).setWidth 32 = v := by
  refine BitVec.eq_of_toNat_eq ?_
  have hv : v.toNat ≤ 0x7F := h
  rw [BitVec.toNat_setWidth, BitVec.toNat_setWidth, Nat.mod_eq_of_lt (by omega), Nat.mod_eq_of_lt (by omega)]

/-- Settles O23: the write stores the value or raises the error, and either changes the block alone. -/
theorem addrWriteIsValidated : Obligations.AddrWriteIsValidated := by
  refine ⟨rfl, Block.hostValue_addr, fun s v hp => ?_⟩
  rw [hostWrite_addr, writeUnlessBusy_idle hp]
  refine ⟨_, rfl, .withBlock s _, ?_⟩
  by_cases hle : v ≤ 0x7F
  · rw [Block.writeAddr_of_le hle]
    refine ⟨rfl, fun _ => ⟨rfl, ?_⟩, fun hgt => absurd hgt (BitVec.not_lt.2 hle)⟩
    rw [Block.hostValue_addr]
    exact setWidth_setWidth_of_le hle
  · rw [Block.writeAddr_of_lt (BitVec.not_le.1 hle), Block.raiseError_idle _ _ _ hp]
    exact ⟨rfl, fun h => absurd h hle, fun _ => rfl⟩

/-- Settles O24: the write stores the value or raises the error, and either changes the block alone. -/
theorem targetWriteIsValidated : Obligations.TargetWriteIsValidated := by
  refine ⟨rfl, Block.hostValue_target, fun s v hp => ?_⟩
  rw [hostWrite_target, writeUnlessBusy_idle hp]
  refine ⟨_, rfl, .withBlock s _, fun hv => ?_, fun hv => ?_⟩
  · have hstore : s.block.writeTarget v = { s.block with target := v.setWidth 3 } := if_pos hv
    rw [hstore]
    refine ⟨rfl, ?_⟩
    rw [Block.hostValue_target]
    rcases hv with rfl | rfl | rfl <;> rfl
  · have hraise : s.block.writeTarget v = s.block.raiseError .illegalTarget 0 := if_neg hv
    rw [hraise, Block.raiseError_idle _ _ _ hp]

/-- Settles O25: both writes store the value whatever it is. -/
theorem divAndRawWritesStoreEveryValue : Obligations.DivAndRawWritesStoreEveryValue := by
  intro s v hp
  rw [hostWrite_div, hostWrite_raw, writeUnlessBusy_idle hp, writeUnlessBusy_idle hp]
  exact ⟨⟨_, rfl, .withBlock s _, rfl, Block.hostValue_div _⟩, ⟨_, rfl, .withBlock s _, rfl, Block.hostValue_raw _⟩⟩

/-- CFG0 reads the low byte written, and the tag of the boot code in it (R54, R56). -/
theorem view0_writeView0 (c : Cfg) (d : Word) :
    view0 (writeView0 c d) = ((d &&& 0xFF) ||| (variantOf (getBits d 2 3)).tag.setWidth 32 <<< 8) := by
  have hmask : 0xFF = ((1 <<< 8) - 1 : Word) := rfl
  refine BitVec.eq_of_getLsbD_eq fun i hi => ?_
  rw [hmask]
  simp only [view0, writeView0, BitVec.getLsbD_setWidth, BitVec.getLsbD_append, BitVec.getLsbD_or, BitVec.getLsbD_and,
    getLsbD_lowMask, getLsbD_getBits, BitVec.getLsbD_shiftLeft]
  grind

/-- Settles O26: the common fields are fields of the word written, and the payload follows the variant. -/
theorem cfg0WriteSetsCommonFields : Obligations.Cfg0WriteSetsCommonFields := by
  intro s d hp
  rw [hostWrite_cfg0, writeUnlessBusy_idle hp]
  refine ⟨_, rfl, .withBlock s _, rfl, rfl, rfl, rfl, rfl, rfl, fun hv => if_pos hv, fun hv => if_neg hv, ?_⟩
  rw [Block.hostValue_cfg0]
  exact view0_writeView0 s.block.cfg d

theorem setWidth_getBits_low (d : Word) (n : Nat) : (getBits d 0 n).setWidth 32 = d &&& ((1 <<< n) - 1) := by
  rw [getBits_eq_shift_mask, BitVec.ushiftRight_zero]

/-- Adjacent fields of a word are one field (R6). -/
theorem getBits_append_getBits (d : Word) (lo n k : Nat) :
    getBits d (lo + n) k ++ getBits d lo n = getBits d lo (k + n) :=
  BitVec.extractLsb'_append_extractLsb'_eq_extractLsb' rfl

theorem view1_writeView1_qspi {c : Cfg} {q : BitVec 24} (h : c.pay = .qspi q) (d : Word) :
    view1 (writeView1 c d) = d &&& 0xFFFFFF := by
  simp only [view1, writeView1, h]
  exact setWidth_getBits_low d 24

theorem view1_writeView1_sd {c : Cfg} {w : BitVec 3} {p : BitVec 1} (h : c.pay = .sd w p) (d : Word) :
    view1 (writeView1 c d) = d &&& 0xF := by
  simp only [view1, writeView1, h]
  exact (congrArg _ (getBits_append_getBits d 0 3 1)).trans (setWidth_getBits_low d 4)

theorem view1_writeView1_mmc {c : Cfg} {w : BitVec 3} {m : BitVec 4} (h : c.pay = .mmc w m) (d : Word) :
    view1 (writeView1 c d) = d &&& 0x7F := by
  simp only [view1, writeView1, h]
  exact (congrArg _ (getBits_append_getBits d 0 3 4)).trans (setWidth_getBits_low d 7)

theorem writeView1_rsvd {c : Cfg} (h : c.pay = .rsvd) (d : Word) : writeView1 c d = c := by
  obtain ⟨_, _, _, _, _, pay⟩ := c
  cases h
  rfl

/-- Settles O27: under each payload alternative the write sets that alternative's fields, and CFG1 reads their bits. -/
theorem cfg1WriteSetsTheActivePayload : Obligations.Cfg1WriteSetsTheActivePayload := by
  intro s d hp
  rw [hostWrite_cfg1, writeUnlessBusy_idle hp]
  refine ⟨_, rfl, .withBlock s _, rfl, fun q hq => ?_, fun w p hsd => ?_, fun w m hmmc => ?_, fun hrsvd => ?_⟩
  · exact ⟨by simp only [writeView1, hq]; rfl, (Block.hostValue_cfg1 _).trans (view1_writeView1_qspi hq d)⟩
  · exact ⟨by simp only [writeView1, hsd]; rfl, (Block.hostValue_cfg1 _).trans (view1_writeView1_sd hsd d)⟩
  · exact ⟨by simp only [writeView1, hmmc]; rfl, (Block.hostValue_cfg1 _).trans (view1_writeView1_mmc hmmc d)⟩
  · rw [writeView1_rsvd hrsvd, Block.hostValue_cfg1]
    exact ⟨rfl, by simp only [view1, hrsvd]⟩

/-- No register stands at a reserved offset (R35, R64). -/
theorem offset_not_reserved (r : Reg) : ¬(r.offset = 0x3C ∨ 0x88 ≤ r.offset) := by
  cases r with
  | dold f | dnew f => cases f <;> decide
  | _ => decide

theorem regAt_reserved {off : BitVec 8} (h : off = 0x3C ∨ 0x88 ≤ off) : regAt off = none := by
  cases hr : regAt off with
  | none => rfl
  | some r => exact absurd (offset_of_regAt hr ▸ h) (offset_not_reserved r)

/-- Settles O29: no register stands at a reserved offset, and a write to any register off the list is ignored. -/
theorem reservedAndReadOnlyOffsetsIgnoreWrites : Obligations.ReservedAndReadOnlyOffsetsIgnoreWrites := by
  refine ⟨fun b off _ hres => by simp only [Block.hostValue, regAt_reserved hres], fun s off v _ hoff => ?_⟩
  cases hr : regAt off with
  | none => exact hostWrite_reserved hr v s
  | some r =>
    rw [hostWrite_of_regAt hr]
    rw [offset_of_regAt hr] at hoff
    cases r with
    | cmd | addr | target | div | raw | cfg0 | cfg1 => exact absurd hoff (by decide)
    | status | errcode | work0 | work1 | wout | rdbk | dmask | lkp | dold | dnew => rfl

/-! The delta registers (R49, R62, R293) -/

/-- Settles O59: ids and values are the definitions under each payload, and the mask is clear wherever no id stands. -/
theorem deltaRegistersHoldTheEncodedFields : Obligations.DeltaRegistersHoldTheEncodedFields := by
  refine ⟨rfl, fun f => by cases f <;> decide, fun c => ⟨rfl, rfl, rfl, rfl, rfl, ?_, ?_, ?_, ?_⟩, rfl, fun _ => rfl,
    FieldRegs.ofCfg_get, fun o n => ⟨deltaMask_getLsbD o n, ?_⟩⟩
  · exact fun q hq => by simp only [fieldVal, hq, and_self]
  · exact fun w p hsd => by simp only [fieldVal, hsd, and_self]
  · exact fun w m hmmc => by simp only [fieldVal, hmmc, and_self]
  · exact fun hrsvd => by simp only [fieldVal, hrsvd, and_self]
  · exact deltaMask_and_eq_zero fun f hf => by cases f <;> exact absurd hf (by decide)

end Sys2Proof.Machine
end

section
/-! The host's accesses (20_memory.md R107, R110 to R112): when one is refused, what an aligned read gives, and what
an aligned write calls. -/

namespace Sys2Proof.Machine

/-! One host operation as a step (R107, R109) -/

theorem step_host {s : State} {op : HostOp} {ops : List HostOp} {ts : List Turn} (ht : s.turns = .host :: ts)
    (hp : s.host.program = op :: ops) :
    step s = hostOp op { s with turns := ts, host := { s.host with program := ops } } := by
  simp only [step, ht, takeTurn, hostTurn, hp]

theorem aligned32_aligned {off : BitVec 8} (h : off.toNat % 4 = 0) (access : State → Result) (s : State) :
    aligned32 off 32 access s = access s := by simp [aligned32, h]

theorem aligned32_misaligned {off : BitVec 8} (h : off.toNat % 4 ≠ 0) (width : Nat) (access : State → Result)
    (s : State) : aligned32 off width access s = .refused .misalignedAccess := by simp [aligned32, h]

theorem aligned32_narrow {off : BitVec 8} {width : Nat} (h : off.toNat % 4 = 0) (hw : width ≠ 32)
    (access : State → Result) (s : State) : aligned32 off width access s = .refused .accessWidth := by
  simp [aligned32, h, hw]

/-- A host read or write is its effect on the state under the check of R107. -/
theorem hostOp_access {op : HostOp} {off : BitVec 8} {width : Nat} {v : Word}
    (h : op = .write off width v ∨ op = .read off width) :
    ∃ access : State → Result, ∀ s, hostOp op s = aligned32 off width access s := by
  rcases h with rfl | rfl
  · exact ⟨hostWrite off v, fun _ => rfl⟩
  · exact ⟨hostRead off, fun _ => rfl⟩

/-- Settles O31: a read and a write pass the same check, which refuses either defect before the access has an effect. -/
theorem misalignedOrNarrowAccessIsRefused : Obligations.MisalignedOrNarrowAccessIsRefused := by
  intro s off width v op ops ts hop ht hp
  obtain ⟨access, haccess⟩ := hostOp_access hop
  rw [step_host ht hp, haccess]
  exact ⟨fun hmis => aligned32_misaligned hmis _ _ _, fun hal hw => aligned32_narrow hal hw _ _⟩

/-- Settles O10: an aligned write passes the check of R107, and CMD's write runs the command decoded. -/
theorem stepRunsTheDecodedCommand : Obligations.StepRunsTheDecodedCommand := by
  have hwrite : ∀ (s : State) (off : BitVec 8) (v : Word) (ops : List HostOp) (ts : List Turn), off.toNat % 4 = 0 →
      step { s with turns := .host :: ts, host := { s.host with program := .write off 32 v :: ops } } =
        hostWrite off v { s with turns := ts, host := { s.host with program := ops } } := by
    intro s off v ops ts hal
    rw [step_host rfl rfl]
    exact aligned32_aligned hal _ _
  refine ⟨hwrite, fun s i w ops ts hdec => ?_⟩
  rw [hwrite s 0x00 w ops ts rfl, hostWrite_cmd]
  simp only [writeCmd, hdec]

/-! Writes while a run is in progress (R112, R200) -/

theorem writeCmd_busy {s : State} (h : s.block.busy = true) (v : Word) :
    writeCmd v s = .next { s with block := s.block.dropWrite } := by
  rw [writeCmd_eq_takeCommand, takeCommand_busy h]

/-- Settles O28: every write on the list goes through a check of BUSY, which drops it. -/
theorem writesAreDroppedWhileBusy : Obligations.WritesAreDroppedWhileBusy := by
  intro s off v hb hoff
  simp only [List.mem_cons, List.not_mem_nil, or_false] at hoff
  rcases hoff with rfl | rfl | rfl | rfl | rfl | rfl | rfl
  · exact (hostWrite_cmd v s).trans (writeCmd_busy hb v)
  · exact (hostWrite_addr v s).trans (writeUnlessBusy_busy hb)
  · exact (hostWrite_target v s).trans (writeUnlessBusy_busy hb)
  · exact (hostWrite_div v s).trans (writeUnlessBusy_busy hb)
  · exact (hostWrite_raw v s).trans (writeUnlessBusy_busy hb)
  · exact (hostWrite_cfg0 v s).trans (writeUnlessBusy_busy hb)
  · exact (hostWrite_cfg1 v s).trans (writeUnlessBusy_busy hb)

/-! Reads (R110, R111) -/

/-- A host read gives the register whose offset it names (R35). -/
theorem Block.hostValue_offset (b : Block) (r : Reg) : b.hostValue r.offset = b.readReg r := by
  simp only [Block.hostValue, regAt_offset]

/-- Settles O30: each register is found at its offset, and an aligned read changes the host agent alone. -/
theorem hostReadReturnsTheRegister : Obligations.HostReadReturnsTheRegister := by
  refine ⟨fun b => ⟨b.hostValue_cmd, b.hostValue_status, b.hostValue_errcode, b.hostValue_div, b.hostValue_raw,
    b.hostValue_wout, b.hostValue_rdbk, b.hostValue_dmask, b.hostValue_lkp,
    fun f => ⟨b.hostValue_offset (.dold f), b.hostValue_offset (.dnew f)⟩⟩, fun s off ops ts hal => ?_⟩
  rw [step_host rfl rfl]
  exact ⟨_, aligned32_aligned hal _ _, rfl, rfl, rfl, rfl, rfl, fun _ => rfl⟩

end Sys2Proof.Machine
end

section
/-! The transport port (20_memory.md R114 to R121): the responses that are given a step, and the steps that leave the
EEPROM alone. -/

namespace Sys2Proof.Machine

/-! Which responses a request admits (R119, R121) -/

theorem admits_query_iff {p : Response} :
    Request.query.admits p = true ↔ p = .idle ∨ p = .busy ∨ ∃ c, p = .err c := by
  cases p <;> simp [Request.admits]

theorem admits_cancel_iff {p : Response} : Request.cancel.admits p = true ↔ p = .ack := by
  cases p <;> simp [Request.admits]

theorem admits_configure_iff {d : Word} {p : Response} :
    (Request.configure d).admits p = true ↔ p = .ok ∨ ∃ c, p = .err c := by
  cases p <;> simp [Request.admits]

theorem admits_read_iff {a : SlaveAddr} {o n : BitVec 8} {p : Response} :
    (Request.read a o n).admits p = true ↔ (∃ bs : List Byte, p = .data bs ∧ bs.length ≤ 60) ∨ ∃ c, p = .err c := by
  cases p with
  | data bs =>
    simp only [Request.admits, decide_eq_true_eq, Response.data.injEq, existsAndEq, reduceCtorEq, exists_false,
      or_false, true_and]
    rfl
  | _ => simp [Request.admits]

theorem admits_write_iff {a : SlaveAddr} {o : BitVec 8} {bs : List Byte} {p : Response} :
    (Request.write a o bs).admits p = true ↔ p = .ok ∨ ∃ c, p = .err c := by
  cases p <;> simp [Request.admits]

theorem answer_without_request {s : State} (h : s.block.req = none) (p : Response) :
    answer p s = .refused .noOutstandingRequest := by simp only [answer, h]

theorem answer_not_admitted {s : State} {r : Request} {p : Response} (hr : s.block.req = some r)
    (ha : r.admits p = false) : answer p s = .refused .responseNotAdmitted := by simp [answer, hr, ha]

theorem step_answer {s : State} {p : Response} {ts : List Turn} (h : s.turns = .answer p :: ts) :
    step s = answer p { s with turns := ts } := by simp only [step, h, takeTurn]

/-- Settles O43: the table request by request, and the refusals of `answer` for whatever is not in it. -/
theorem unadmittedResponsesGetNoStep : Obligations.UnadmittedResponsesGetNoStep := by
  refine ⟨fun r p => ?_, fun s p ts ht => ?_⟩
  · cases r with
    | query => simp [admits_query_iff]
    | cancel => simp [admits_cancel_iff]
    | configure d => simp [admits_configure_iff]
    | read a o n => simp [admits_read_iff]
    | write a o bs => simp [admits_write_iff]
  · rw [step_answer ht]
    exact ⟨fun hr => answer_without_request (s := { s with turns := ts }) hr p,
      fun r hr ha => answer_not_admitted (s := { s with turns := ts }) hr ha⟩

/-! Steps that leave the EEPROM alone (R115, R128, R452) -/

theorem answer_eeprom {p : Response} {s t : State} (h : answer p s = .next t)
    (hw : ∀ a o bs, s.block.req ≠ some (.write a o bs)) : t.transport.eeprom = s.transport.eeprom := by
  obtain ⟨r, b, hr, -, -, rfl⟩ := answer_next_iff.1 h
  exact Transport.settle_eeprom _ r p fun a o bs e => hw a o bs (hr.trans (congrArg some e))

theorem environmentAnswer_eeprom {s t : State} (h : environmentAnswer s = .next t)
    (hw : ∀ a o bs, s.block.req ≠ some (.write a o bs)) : t.transport.eeprom = s.transport.eeprom := by
  obtain ⟨r, -, ha⟩ := environmentAnswer_cases h
  exact (answer_eeprom ha hw :)

/-- Without an outstanding Write the only turn that changes a byte of the EEPROM is the one of another writer. -/
theorem takeTurn_eepromRead {u : Turn} {s t : State} (h : takeTurn u s = .next t)
    (hw : ∀ a o bs, s.block.req ≠ some (.write a o bs)) (hu : ∀ a o bs, u ≠ .eepromChange a o bs) (k : Nat) :
    eepromRead t.transport.eeprom k = eepromRead s.transport.eeprom k := by
  cases u with
  | host => rw [(hostTurn_cases h).1]
  | answer p => rw [answer_eeprom h hw]
  | environment => rw [environmentAnswer_eeprom h hw]
  | lateAnswer i p => obtain ⟨rs, rfl⟩ := lateAnswer_cases h; rfl
  | reset =>
    cases h
    exact Transport.abandon_read _ _ k fun a o bs e => absurd e (hw a o bs)
  | eepromChange a o bs => exact absurd rfl (hu a o bs)

/-- Settles O46: the step is its first turn, and a reset has no Write to abandon. -/
theorem eepromChangesOnlyThroughWrites : Obligations.EepromChangesOnlyThroughWrites := by
  intro s t h hw hturn k
  rcases step_cases h with ⟨-, rfl⟩ | ⟨u, ts, hts, hu⟩
  · rfl
  · exact takeTurn_eepromRead hu hw (fun a o bs e => hturn a o bs ts (e ▸ hts)) k

end Sys2Proof.Machine
end

section
/-! The codec and the delta undone: a well-formed configuration is read back from its encoding, and any from
its delta registers (41_codec.md R232, 43_update_policy.md R293). -/

namespace Sys2Proof.Machine

/-! Fields of an encoded word (R6, R232) -/

theorem getBits_putBits_same {n : Nat} (v : BitVec n) {lo : Nat} (h : lo + n ≤ 32) :
    getBits (putBits v lo) lo n = v := by
  refine BitVec.eq_of_getLsbD_eq fun i hi => ?_
  have hword : lo + i < 32 := by omega
  simp only [getLsbD_getBits, getLsbD_putBits, hi, hword, Nat.le_add_right, Nat.add_sub_cancel_left, decide_true,
    Bool.true_and]

/-- Fields at places that do not overlap do not see each other. -/
theorem getBits_putBits_disjoint {n : Nat} (v : BitVec n) {lo lo' n' : Nat} (h : lo + n ≤ lo' ∨ lo' + n' ≤ lo) :
    getBits (putBits v lo) lo' n' = 0#n' := by
  refine BitVec.eq_of_getLsbD_eq fun i hi => ?_
  rw [getLsbD_getBits, getLsbD_putBits]
  rcases h with habove | hbelow
  · have hout : v.getLsbD (lo' + i - lo) = false := BitVec.getLsbD_of_ge v _ (by omega)
    simp [hout]
  · have hout : ¬lo ≤ lo' + i := by omega
    simp [hout]

/-- The payload's places are none of the common fields' (R150 to R154). -/
theorem getBits_encodePayload {lo n : Nat}
    (h : lo + n ≤ 2 ∨ (5 ≤ lo ∧ lo + n ≤ 9) ∨ (16 ≤ lo ∧ lo + n ≤ 17) ∨ 31 ≤ lo) (p : Payload) :
    getBits (encodePayload p) lo n = 0#n := by
  have hdis {m : Nat} (v : BitVec m) {place : Nat} (hv : place + m ≤ lo ∨ lo + n ≤ place) :
      getBits (putBits v place) lo n = 0#n := getBits_putBits_disjoint v hv
  cases p with
  | qspi q =>
    rw [encodePayload, scatterQ, getBits_or, getBits_or, hdis _ (by omega), hdis _ (by omega), hdis _ (by omega)]
    simp only [BitVec.or_zero]
  | sd wait speed | mmc wait mode =>
    rw [encodePayload, getBits_or, hdis _ (by omega), hdis _ (by omega)]
    simp only [BitVec.or_zero]
  | rsvd => exact BitVec.extractLsb'_zero

/-- A common field is read from the encoding at its place. -/
theorem encodeRcw_common (c : Cfg) :
    getBits (encodeRcw c) 0 2 = c.phy ∧ getBits (encodeRcw c) 5 3 = c.boot ∧ getBits (encodeRcw c) 8 1 = c.src ∧
      getBits (encodeRcw c) 16 1 = c.xosc ∧ getBits (encodeRcw c) 31 1 = c.pll := by
  simp [encodeRcw, getBits_or, getBits_putBits_same, getBits_putBits_disjoint, getBits_encodePayload]

/-- The payload's places hold no common field. -/
theorem getBits_encodeRcw_payload {lo n : Nat}
    (h : (2 ≤ lo ∧ lo + n ≤ 5) ∨ (9 ≤ lo ∧ lo + n ≤ 16) ∨ (17 ≤ lo ∧ lo + n ≤ 31)) (c : Cfg) :
    getBits (encodeRcw c) lo n = getBits (encodePayload c.pay) lo n := by
  have hdis {m : Nat} (v : BitVec m) {place : Nat} (hv : place + m ≤ lo ∨ lo + n ≤ place) :
      getBits (putBits v place) lo n = 0#n := getBits_putBits_disjoint v hv
  simp only [encodeRcw, getBits_or]
  rw [hdis _ (by omega), hdis _ (by omega), hdis _ (by omega), hdis _ (by omega), hdis _ (by omega)]
  simp only [BitVec.zero_or]

theorem gatherQ_scatterQ (q : BitVec 24) : gatherQ (scatterQ q) = q := by
  have h17 : getBits (scatterQ q) 17 14 = q.extractLsb' 10 14 := by
    simp [scatterQ, getBits_or, getBits_putBits_same, getBits_putBits_disjoint]
  have h9 : getBits (scatterQ q) 9 7 = q.extractLsb' 3 7 := by
    simp [scatterQ, getBits_or, getBits_putBits_same, getBits_putBits_disjoint]
  have h2 : getBits (scatterQ q) 2 3 = q.extractLsb' 0 3 := by
    simp [scatterQ, getBits_or, getBits_putBits_same, getBits_putBits_disjoint]
  rw [gatherQ, h17, h9, h2, BitVec.extractLsb'_append_extractLsb'_eq_extractLsb' (start₂ := 10) rfl,
    BitVec.extractLsb'_append_extractLsb'_eq_extractLsb' (start₂ := 3) rfl]
  exact BitVec.extractLsb'_eq_self

theorem decodePayload_encodeRcw (c : Cfg) : decodePayload c.pay.variant (encodeRcw c) = c.pay := by
  cases hp : c.pay with
  | qspi q =>
    have hq : gatherQ (encodeRcw c) = gatherQ (scatterQ q) := by
      simp [gatherQ, getBits_encodeRcw_payload, hp, encodePayload]
    exact congrArg Payload.qspi (hq.trans (gatherQ_scatterQ q))
  | sd wait speed | mmc wait mode =>
    simp [decodePayload, Payload.variant, getBits_encodeRcw_payload, hp, encodePayload, getBits_or,
      getBits_putBits_same, getBits_putBits_disjoint]
  | rsvd => rfl

/-- Decoding undoes encoding where the payload is the one the boot code selects (R237). -/
theorem decodeRcw_encodeRcw {c : Cfg} (h : c.wf = true) : decodeRcw (encodeRcw c) = c := by
  obtain ⟨hphy, hboot, hsrc, hxosc, hpll⟩ := encodeRcw_common c
  rw [decodeRcw, hphy, hboot, hsrc, hxosc, hpll, ← (Cfg.wf_iff c).1 h, decodePayload_encodeRcw]

/-! The delta of two configurations (R62, R293) -/

/-- PRESENT tells a value from ABSENT, and the bits below it are the value's (R62). -/
theorem encField_inj {v w : Option Word} (hv : ∀ x ∈ v, x.getLsbD 31 = false) (hw : ∀ x ∈ w, x.getLsbD 31 = false)
    (h : encField v = encField w) : v = w := by
  have hpresentBit : (0x80000000 : Word) = BitVec.twoPow 32 31 := rfl
  have hpresent (x : Word) : (encField (some x)).getLsbD 31 = true := by simp [encField]
  cases v with
  | none =>
    cases w with
    | none => rfl
    | some y => exact absurd (h ▸ hpresent y) (by decide)
  | some x =>
    cases w with
    | none => exact absurd (h ▸ hpresent x) (by decide)
    | some y =>
      refine congrArg some (BitVec.eq_of_getLsbD_eq fun i hi => ?_)
      by_cases h31 : i = 31
      · rw [h31, hv x rfl, hw y rfl]
      · have hbit := congrArg (BitVec.getLsbD · i) h
        have hlow : (BitVec.twoPow 32 31).getLsbD i = false := by simp [BitVec.getLsbD_twoPow, Ne.symm h31]
        simpa only [encField, hpresentBit, BitVec.getLsbD_or, hlow, Bool.false_or] using hbit

theorem getLsbD_31_of_narrow {n : Nat} (hn : n ≤ 31) (v : BitVec n) : (v.setWidth 32).getLsbD 31 = false := by
  rw [BitVec.getLsbD_setWidth, BitVec.getLsbD_of_ge v 31 hn, Bool.and_false]

/-- Every field is narrower than a word, so it leaves PRESENT's bit free (R49, R62). -/
theorem fieldVal_getLsbD_31 (c : Cfg) (f : FieldId) : ∀ x ∈ fieldVal c f, x.getLsbD 31 = false := by
  cases f with
  | src | boot | phy | xosc | pll => rintro x ⟨⟩; exact getLsbD_31_of_narrow (by decide) _
  | qspiQ | speed | wait | mmcMode =>
    simp only [fieldVal]
    split <;> rintro x ⟨⟩
    all_goals exact getLsbD_31_of_narrow (by decide) _

theorem setWidth_inj {n : Nat} (hn : n ≤ 32) {v w : BitVec n} (h : v.setWidth 32 = w.setWidth 32) : v = w := by
  refine BitVec.eq_of_getLsbD_eq fun i hi => ?_
  have hword : i < 32 := by omega
  simpa only [BitVec.getLsbD_setWidth, hword, decide_true, Bool.true_and] using congrArg (BitVec.getLsbD · i) h

/-- The fields present tell which payload it is, and hold all of it (R32, R49). -/
theorem pay_eq_of_fieldVal_eq {c d : Cfg} (h : ∀ f, fieldVal c f = fieldVal d f) : c.pay = d.pay := by
  have hq := h .qspiQ
  have hspeed := h .speed
  have hwait := h .wait
  have hmode := h .mmcMode
  simp only [fieldVal] at hq hspeed hwait hmode
  cases hc : c.pay with
  | qspi q =>
    cases hd : d.pay with
    | qspi q' =>
      simp only [hc, hd, Option.some.injEq] at hq
      rw [setWidth_inj (by decide) hq]
    | sd | mmc | rsvd => simp [hc, hd] at hq
  | sd wait speed =>
    cases hd : d.pay with
    | sd wait' speed' =>
      simp only [hc, hd, Option.some.injEq] at hspeed hwait
      rw [setWidth_inj (by decide) hspeed, setWidth_inj (by decide) hwait]
    | qspi | mmc | rsvd => simp [hc, hd] at hspeed
  | mmc wait mode =>
    cases hd : d.pay with
    | mmc wait' mode' =>
      simp only [hc, hd, Option.some.injEq] at hmode hwait
      rw [setWidth_inj (by decide) hmode, setWidth_inj (by decide) hwait]
    | qspi | sd | rsvd => simp [hc, hd] at hmode
  | rsvd =>
    cases hd : d.pay with
    | rsvd => rfl
    | qspi => simp [hc, hd] at hq
    | sd => simp [hc, hd] at hspeed
    | mmc => simp [hc, hd] at hmode

/-- A configuration is determined by its fields (R49). -/
theorem Cfg.eq_of_fieldVal_eq {c d : Cfg} (h : ∀ f, fieldVal c f = fieldVal d f) : c = d := by
  have hphy := setWidth_inj (by decide) (Option.some.inj (h .phy))
  have hboot := setWidth_inj (by decide) (Option.some.inj (h .boot))
  have hsrc := setWidth_inj (by decide) (Option.some.inj (h .src))
  have hxosc := setWidth_inj (by decide) (Option.some.inj (h .xosc))
  have hpll := setWidth_inj (by decide) (Option.some.inj (h .pll))
  have hpay := pay_eq_of_fieldVal_eq h
  cases c
  cases d
  simp only at hphy hboot hsrc hxosc hpll hpay
  rw [hphy, hboot, hsrc, hxosc, hpll, hpay]

/-- Configurations with an empty delta are equal (R293, R294). -/
theorem Cfg.eq_of_deltaMask_eq_zero {c d : Cfg} (h : deltaMask (FieldRegs.ofCfg c) (FieldRegs.ofCfg d) = 0) :
    c = d := by
  refine Cfg.eq_of_fieldVal_eq fun f => ?_
  have hreg := (deltaMask_eq_zero_iff _ _).1 h f
  rw [FieldRegs.ofCfg_get, FieldRegs.ofCfg_get] at hreg
  exact encField_inj (fieldVal_getLsbD_31 c f) (fieldVal_getLsbD_31 d f) hreg

end Sys2Proof.Machine
end

section
/-! Update runs in the environment of R124 (20_memory.md): what each of its answers leads to, the way from the take of
UPDATE to the Read, and the two ways a run ends from there. -/

namespace Sys2Proof.Machine

/-! Four bytes as one word (R7) -/

/-- The four bytes of a word are taken as that word (R326, R331). -/
theorem Block.onData_bytesLE (b : Block) (f : Word → Block) (w : Word) : b.onData f (bytesLE w) = f w :=
  congrArg f (wordLE_getBits w)

/-! The answers of the environment (R124) -/

/-- The state after an answer of the environment: the block, the EEPROM and the bus as given, and one draw spent. -/
def State.afterAnswer (s : State) (b : Block) (m : Memory) (bus : BusState) : State :=
  { s with
    block := b
    transport := { s.transport with eeprom := m, bus := bus, draws := s.transport.draws + 1 } }

/-- The environment's reply, where the request admits it and the block has a transition for it, gives a next state. -/
theorem environmentAnswer_of {s : State} {r : Request} {p : Response} {b : Block} (hr : s.block.req = some r)
    (hp : s.transport.reply r = p) (ha : r.admits p = true) (ho : s.block.onResponse p = some b) :
    environmentAnswer s = .next { s with
      block := b, transport := { s.transport with draws := s.transport.draws + 1 }.settle r p } := by
  simp only [environmentAnswer, hr, hp]
  exact answer_of (s := { s with transport := { s.transport with draws := s.transport.draws + 1 } }) hr ha ho

theorem environmentAnswer_query_idle {s : State} (hp : s.block.phase = .query) (hr : s.block.req = some .query)
    (hb : s.transport.bus = .idle) :
    environmentAnswer s = .next (s.afterAnswer s.block.enterConfig s.transport.eeprom .idle) :=
  environmentAnswer_of (p := .idle) hr (by simp only [Transport.reply, hb]) rfl
    (by simp only [Block.onResponse, hp, Block.onQuery])

theorem environmentAnswer_query_busy {s : State} (hp : s.block.phase = .query) (hr : s.block.req = some .query)
    (hb : s.transport.bus = .busy) :
    environmentAnswer s =
      .next (s.afterAnswer { s.block with phase := .cancel, req := some .cancel } s.transport.eeprom .busy) :=
  environmentAnswer_of (p := .busy) hr (by simp only [Transport.reply, hb]) rfl
    (by simp only [Block.onResponse, hp, Block.onQuery])

theorem environmentAnswer_cancel {s : State} (hp : s.block.phase = .cancel) (hr : s.block.req = some .cancel) :
    environmentAnswer s = .next (s.afterAnswer s.block.enterConfig s.transport.eeprom .idle) :=
  environmentAnswer_of (p := .ack) hr rfl rfl (by simp only [Block.onResponse, hp, Block.onCancel])

theorem environmentAnswer_configure {s : State} {d : Word} (hp : s.block.phase = .config)
    (hr : s.block.req = some (.configure d)) :
    environmentAnswer s = .next (s.afterAnswer
      { s.block with phase := .read, nread := 1, req := some s.block.readRequest }
      s.transport.eeprom s.transport.bus) :=
  environmentAnswer_of (p := .ok) hr rfl rfl (by simp only [Block.onResponse, hp, Block.onConfig])

/-- At EEPROM_ADDR a Read of the word is answered with the bytes recorded there. -/
theorem reply_read {t : Transport} {b : Block} {w : Word} (ha : b.addr = Config.eepromAddr)
    (hw : eepromReadBytes t.eeprom b.addr 0 4 = bytesLE w) : t.reply b.readRequest = .data (bytesLE w) := by
  simp only [Block.readRequest, Transport.reply, if_pos ha]
  exact congrArg Response.data hw

theorem environmentAnswer_read {s : State} {w : Word} (hp : s.block.phase = .read)
    (hr : s.block.req = some s.block.readRequest) (ha : s.block.addr = Config.eepromAddr)
    (hw : eepromReadBytes s.transport.eeprom s.block.addr 0 4 = bytesLE w) :
    environmentAnswer s = .next (s.afterAnswer (s.block.onWordRead w) s.transport.eeprom s.transport.bus) :=
  environmentAnswer_of hr (reply_read ha hw) rfl
    (by simp only [Block.onResponse, hp, Block.onRead, Block.onData_bytesLE])

theorem environmentAnswer_readback {s : State} {w : Word} (hp : s.block.phase = .readback)
    (hr : s.block.req = some s.block.readRequest) (ha : s.block.addr = Config.eepromAddr)
    (hw : eepromReadBytes s.transport.eeprom s.block.addr 0 4 = bytesLE w) :
    environmentAnswer s = .next (s.afterAnswer (s.block.onWordReadBack w) s.transport.eeprom s.transport.bus) :=
  environmentAnswer_of hr (reply_read ha hw) rfl
    (by simp only [Block.onResponse, hp, Block.onReadback, Block.onData_bytesLE])

theorem environmentAnswer_write {s : State} {w : Word} (hp : s.block.phase = .write)
    (hr : s.block.req = some (s.block.writeRequest w)) (ha : s.block.addr = Config.eepromAddr) :
    environmentAnswer s = .next (s.afterAnswer
      { s.block with wrote := true, phase := .readback, nread := 2, req := some s.block.readRequest }
      (eepromWriteBytes s.transport.eeprom s.block.addr 0 (bytesLE w)) s.transport.bus) :=
  environmentAnswer_of (p := .ok) hr (by simp only [Block.writeRequest, Transport.reply, if_pos ha]) rfl
    (by simp only [Block.onResponse, hp, Block.onWrite])

theorem runTurns_environment_succ {s t : State} (h : environmentAnswer s = .next t) (n : Nat) :
    runTurns (List.replicate (n + 1) .environment) s = runTurns (List.replicate n .environment) t := by
  simp only [List.replicate_succ, runTurns, takeTurn, h]

/-! From the take of UPDATE to the word read (R320 to R326) -/

/-- The block in phase READ of a run that was taken in the block `b`. -/
def Block.runAtRead (b : Block) : Block :=
  { b.clearForTake.startRun with phase := .read, nread := 1, req := some b.readRequest }

/-- The answers that bring a run to its Read: those to Query and Configure, and the Cancel's when the bus is busy. -/
def preflightAnswers : BusState → Nat
  | .idle => 2
  | .busy => 3

/-- The Configure of a run is answered Ok, which places its Read. -/
theorem environmentAnswer_after_preflight (s : State) (b : Block) :
    environmentAnswer (s.afterAnswer b.clearForTake.startRun.enterConfig s.transport.eeprom .idle) =
      .next ((s.afterAnswer b.clearForTake.startRun.enterConfig s.transport.eeprom .idle).afterAnswer b.runAtRead
        s.transport.eeprom .idle) :=
  environmentAnswer_configure rfl rfl

/-- Whatever the bus state, the environment brings a run to its Read with an idle bus and the EEPROM untouched. -/
theorem update_reaches_read {s t : State} (hp : s.block.phase = .idle) (h : exec .update s = .next t) :
    ∃ v : State,
      (∀ n, runTurns (List.replicate (n + preflightAnswers s.transport.bus) .environment) t =
        runTurns (List.replicate n .environment) v) ∧
      v.block = s.block.runAtRead ∧ v.transport.eeprom = s.transport.eeprom ∧ v.transport.bus = .idle := by
  rw [exec_idle _ hp] at h
  cases h
  cases hb : s.transport.bus with
  | idle =>
    have hquery := environmentAnswer_query_idle (s := { s with block := s.block.clearForTake.startRun }) rfl rfl hb
    exact ⟨_, fun n => (runTurns_environment_succ hquery (n + 1)).trans
      (runTurns_environment_succ (environmentAnswer_after_preflight _ s.block) n), rfl, rfl, rfl⟩
  | busy =>
    have hquery := environmentAnswer_query_busy (s := { s with block := s.block.clearForTake.startRun }) rfl rfl hb
    have hcancel := environmentAnswer_cancel (s := State.afterAnswer { s with block := s.block.clearForTake.startRun }
      { s.block.clearForTake.startRun with phase := .cancel, req := some .cancel } s.transport.eeprom .busy) rfl rfl
    exact ⟨_, fun n => (runTurns_environment_succ hquery (n + 2)).trans
      ((runTurns_environment_succ hcancel (n + 1)).trans
        (runTurns_environment_succ (environmentAnswer_after_preflight _ s.block) n)), rfl, rfl, rfl⟩

/-- With ADDR at EEPROM_ADDR the run then reads the word recorded there. -/
theorem update_reads_word {s t : State} {r : Word} (hp : s.block.phase = .idle) (ha : s.block.addr = Config.eepromAddr)
    (h : exec .update s = .next t) (hr : eepromReadBytes s.transport.eeprom s.block.addr 0 4 = bytesLE r) :
    ∃ v : State,
      (∀ n, runTurns (List.replicate (n + 1 + preflightAnswers s.transport.bus) .environment) t =
        runTurns (List.replicate n .environment) v) ∧
      v.block = s.block.runAtRead.onWordRead r ∧ v.transport.eeprom = s.transport.eeprom ∧
      v.transport.bus = .idle := by
  obtain ⟨u, hrun, hblock, heeprom, hbus⟩ := update_reaches_read hp h
  have hread : environmentAnswer u =
      .next (u.afterAnswer (u.block.onWordRead r) u.transport.eeprom u.transport.bus) :=
    environmentAnswer_read (by rw [hblock]; rfl) (by rw [hblock]; rfl) (by rw [hblock]; exact ha)
      (by rw [hblock, heeprom]; exact hr)
  exact ⟨_, fun n => (hrun (n + 1)).trans (runTurns_environment_succ hread n),
    congrArg (Block.onWordRead · r) hblock, heeprom, hbus⟩

/-- Settles O48: the word read has an empty delta, which ends the run at its one Read. -/
theorem runOnAPlannedWordWritesNothing : Obligations.RunOnAPlannedWordWritesNothing := by
  intro s t hp ha hupdate r hr hplan
  obtain ⟨v, hrun, hblock, heeprom, hbus⟩ := update_reads_word hp ha hupdate hr
  have hanswers : (if s.transport.bus = .busy then 4 else 3) = 0 + 1 + preflightAnswers s.transport.bus := by
    cases s.transport.bus <;> rfl
  have hdelta : deltaMask (FieldRegs.ofCfg (decodeRcw r))
      (FieldRegs.ofCfg (plan (decodeRcw r) s.block.runAtRead.target)) = 0 :=
    (deltaMask_eq_zero_iff _ _).2 fun f => congrArg (FieldRegs.get · f) (congrArg FieldRegs.ofCfg hplan.symm)
  rw [Block.onWordRead_unchanged _ _ hdelta] at hblock
  rw [hanswers, hrun]
  refine ⟨v, rfl, ?_⟩
  rw [hblock]
  exact ⟨rfl, rfl, rfl, rfl, rfl, rfl, rfl, rfl, rfl, rfl, heeprom, hbus⟩

/-! From the Write to the end of the run (R329, R331) -/

/-- At EEPROM_ADDR a Write stores its word, and the read-back finds it there and ends the run. -/
theorem write_is_read_back {s : State} {w : Word} (hp : s.block.phase = .write)
    (hr : s.block.req = some (s.block.writeRequest w)) (ha : s.block.addr = Config.eepromAddr) :
    ∃ u : State, runTurns (List.replicate 2 .environment) s = .next u ∧
      u.block = { s.block with
        wrote := true, nread := 2, rdbk := w, cfg := decodeRcw w, vmismatch := w != s.block.wout
        phase := .idle, req := none, done := true } ∧
      u.transport.eeprom = eepromWriteBytes s.transport.eeprom s.block.addr 0 (bytesLE w) := by
  have hback := environmentAnswer_readback (s := s.afterAnswer
      { s.block with wrote := true, phase := .readback, nread := 2, req := some s.block.readRequest }
      (eepromWriteBytes s.transport.eeprom s.block.addr 0 (bytesLE w)) s.transport.bus)
    rfl rfl ha (eepromReadBytes_writeBytes _ _ w)
  exact ⟨_, (runTurns_environment_succ (environmentAnswer_write hp hr ha) 1).trans
    (runTurns_environment_succ hback 0), rfl, rfl⟩

/-- Settles O47: the delta is not empty, so the planned word is written and read back as written, and it decodes to the
plan. -/
theorem runInTheEnvironmentWritesThePlannedWord : Obligations.RunInTheEnvironmentWritesThePlannedWord := by
  intro s t _ hp ha hbus hupdate r hr hplan
  obtain ⟨v, hrun, hblock, heeprom, -⟩ := update_reads_word hp ha hupdate hr
  have hdelta : (deltaMask (FieldRegs.ofCfg (decodeRcw r))
      (FieldRegs.ofCfg (plan (decodeRcw r) s.block.runAtRead.target)) != 0) = true :=
    bne_iff_ne.2 fun h => hplan (Cfg.eq_of_deltaMask_eq_zero h).symm
  rw [Block.onWordRead_changed _ _ hdelta] at hblock
  obtain ⟨u, hu, hend, hbytes⟩ := write_is_read_back (s := v) (w := encodeRcw (plan (decodeRcw r) s.block.target))
    (by rw [hblock]) (by rw [hblock]; rfl) (by rw [hblock]; exact ha)
  rw [hblock] at hend hbytes
  refine ⟨u, ?_, ?_⟩
  · rw [hbus] at hrun
    exact (hrun 2).trans hu
  · rw [hend, hbytes]
    exact ⟨rfl, rfl, rfl, rfl, bne_self_eq_false' _, decodeRcw_encodeRcw (plan_wf _ (decodeRcw_wf r)),
      eepromReadBytes_writeBytes _ _ _⟩

end Sys2Proof.Machine
end

section
/-! The command words of 30_encoding.md: the fields of the one command format (R168), the opcode map row by row
(R170, R171), what follows for decoding and for the illegal words (R172), and the WAITIDLE of R176. -/

namespace Sys2Proof.Machine

/-! The fields of a command word (R168) -/

/-- A word is bits 31:12, CODE, SEL and OP in a row. -/
theorem eq_append_fields (w : Word) : w = w.extractLsb' 12 20 ++ codeField w ++ selField w ++ opField w := by
  rw [codeField, selField, opField, BitVec.extractLsb'_append_extractLsb'_eq_extractLsb' (start₂ := 12) rfl,
    BitVec.extractLsb'_append_extractLsb'_eq_extractLsb' (start₂ := 8) rfl,
    BitVec.extractLsb'_append_extractLsb'_eq_extractLsb' (start₂ := 4) rfl]
  exact BitVec.extractLsb'_eq_self.symm

/-- Two words are equal exactly when their bits 31:12, CODE, SEL and OP are. -/
theorem eq_iff_fields {v w : Word} : v = w ↔ v.extractLsb' 12 20 = w.extractLsb' 12 20 ∧
    codeField v = codeField w ∧ selField v = selField w ∧ opField v = opField w := by
  refine ⟨fun h => h ▸ ⟨rfl, rfl, rfl, rfl⟩, fun ⟨hhigh, hcode, hsel, hop⟩ => ?_⟩
  rw [eq_append_fields v, eq_append_fields w, hhigh, hcode, hsel, hop]

theorem codeField_and (v w : Word) : codeField (v &&& w) = codeField v &&& codeField w := BitVec.extractLsb'_and
theorem selField_and (v w : Word) : selField (v &&& w) = selField v &&& selField w := BitVec.extractLsb'_and
theorem opField_and (v w : Word) : opField (v &&& w) = opField v &&& opField w := BitVec.extractLsb'_and

@[simp] theorem opField_commandWord (op sel code : BitVec 4) : opField (commandWord op sel code) = op :=
  BitVec.extractLsb'_append_eq_right

@[simp] theorem selField_commandWord (op sel code : BitVec 4) : selField (commandWord op sel code) = sel := by
  rw [selField, commandWord, BitVec.extractLsb'_append_eq_of_le (by decide)]
  exact BitVec.extractLsb'_append_eq_right

@[simp] theorem codeField_commandWord (op sel code : BitVec 4) : codeField (commandWord op sel code) = code := by
  rw [codeField, commandWord, BitVec.extractLsb'_append_eq_of_le (by decide),
    BitVec.extractLsb'_append_eq_of_le (by decide)]
  exact BitVec.extractLsb'_append_eq_right

@[simp] theorem highBits_commandWord (op sel code : BitVec 4) : (commandWord op sel code).extractLsb' 12 20 = 0 := by
  rw [commandWord, BitVec.extractLsb'_append_eq_of_le (by decide), BitVec.extractLsb'_append_eq_of_le (by decide)]
  exact BitVec.extractLsb'_append_eq_left

/-- The words of the command format are those with bits 31:12 clear, and each has one OP, SEL and CODE. -/
theorem commandWord_eq_iff {op sel code : BitVec 4} {w : Word} : commandWord op sel code = w ↔
    w.extractLsb' 12 20 = 0 ∧ codeField w = code ∧ selField w = sel ∧ opField w = op := by
  rw [eq_comm, eq_iff_fields, highBits_commandWord, codeField_commandWord, selField_commandWord, opField_commandWord]

theorem codeField_encode (i : Instr) : codeField (encode i) = i.codeOf := by
  cases i <;> exact codeField_commandWord ..

/-! The rows of the opcode map (R171) -/

/-- Every row fixes bits 31:12 to 0 and SEL and OP to those of its match value; its mask leaves free only bits of
CODE, which the match value has clear. -/
theorem opcodeRows_fixed : ∀ r ∈ opcodeRows, r.mask.extractLsb' 12 20 = BitVec.allOnes 20 ∧
    selField r.mask = BitVec.allOnes 4 ∧ opField r.mask = BitVec.allOnes 4 ∧
    r.pattern.extractLsb' 12 20 = 0 ∧ codeField r.pattern = 0 := by decide

/-- The command of a row is encoded with the row's OP and SEL, and a CODE is one that the row's mask admits exactly when
the command carries it and it fits the command's table (R169). -/
theorem opcodeRows_build : ∀ r ∈ opcodeRows, ∀ c : BitVec 4,
    encode (r.build c) = commandWord (opField r.pattern) (selField r.pattern) (r.build c).codeOf ∧
      (c &&& codeField r.mask = 0 ↔ (r.build c).codeOf = c ∧ (r.build c).wf = true) := by decide

/-- No word can match two rows: some bit that both masks compare differs in their match values. -/
theorem opcodeRows_clash : ∀ m n : Fin opcodeRows.length,
    (opcodeRows.get m).pattern &&& (opcodeRows.get n).mask = (opcodeRows.get n).pattern &&& (opcodeRows.get m).mask →
      m = n := by decide

/-- Every command has a row, which builds it from the CODE it carries. -/
theorem exists_opcodeRow (i : Instr) : ∃ r ∈ opcodeRows, r.build i.codeOf = i := by
  cases i <;> simp [opcodeRows, Instr.codeOf]

/-- A word matches a row field by field. -/
theorem row_match_iff_fields {r : OpcodeRow} (hr : r ∈ opcodeRows) (w : Word) : w &&& r.mask = r.pattern ↔
    w.extractLsb' 12 20 = 0 ∧ codeField w &&& codeField r.mask = 0 ∧ selField w = selField r.pattern ∧
      opField w = opField r.pattern := by
  obtain ⟨hhigh, hsel, hop, hhigh0, hcode0⟩ := opcodeRows_fixed r hr
  rw [eq_iff_fields, BitVec.extractLsb'_and, codeField_and, selField_and, opField_and, hhigh, hsel, hop, hhigh0, hcode0,
    BitVec.and_allOnes, BitVec.and_allOnes, BitVec.and_allOnes]

/-- A word matches a row exactly when it is the encoding of the row's command with the word's CODE, and that fits. -/
theorem row_match_iff_encode {r : OpcodeRow} (hr : r ∈ opcodeRows) (w : Word) : w &&& r.mask = r.pattern ↔
    (r.build (codeField w)).wf = true ∧ encode (r.build (codeField w)) = w := by
  obtain ⟨hencode, hcode⟩ := opcodeRows_build r hr (codeField w)
  rw [row_match_iff_fields hr, hcode, hencode, commandWord_eq_iff, eq_comm (a := (r.build _).codeOf)]
  tauto

theorem row_match_unique (w : Word) (m n : Fin opcodeRows.length)
    (hm : w &&& (opcodeRows.get m).mask = (opcodeRows.get m).pattern)
    (hn : w &&& (opcodeRows.get n).mask = (opcodeRows.get n).pattern) : m = n := by
  refine opcodeRows_clash m n ?_
  rw [← hm, ← hn, BitVec.and_assoc, BitVec.and_assoc, BitVec.and_comm (opcodeRows.get m).mask]

/-! Decoding (R170) -/

theorem OpcodeRow.accepts_iff {r : OpcodeRow} {w : Word} : r.accepts w = true ↔ w &&& r.mask = r.pattern := beq_iff_eq

theorem row_match_of_find? {w : Word} {r : OpcodeRow} (h : opcodeRows.find? (·.accepts w) = some r) :
    r ∈ opcodeRows ∧ w &&& r.mask = r.pattern := by
  have haccepts := List.find?_some h
  exact ⟨List.mem_of_find?_eq_some h, OpcodeRow.accepts_iff.1 haccepts⟩

/-- The row found for a word is the one it matches. -/
theorem find?_row_eq_some_iff {w : Word} {r : OpcodeRow} :
    opcodeRows.find? (·.accepts w) = some r ↔ r ∈ opcodeRows ∧ w &&& r.mask = r.pattern := by
  refine ⟨row_match_of_find?, fun ⟨hr, hmatch⟩ => ?_⟩
  have hfound : (opcodeRows.find? (·.accepts w)).isSome :=
    List.find?_isSome.2 ⟨r, hr, OpcodeRow.accepts_iff.2 hmatch⟩
  obtain ⟨q, hfind⟩ := Option.isSome_iff_exists.1 hfound
  obtain ⟨hq, hqmatch⟩ := row_match_of_find? hfind
  obtain ⟨m, rfl⟩ := List.mem_iff_get.1 hr
  obtain ⟨n, rfl⟩ := List.mem_iff_get.1 hq
  rw [row_match_unique w m n hmatch hqmatch, hfind]

theorem decode_eq_ok_iff_row {w : Word} {i : Instr} : decode w = .ok i ↔
    ∃ r ∈ opcodeRows, w &&& r.mask = r.pattern ∧ i = r.build (codeField w) := by
  constructor
  · intro h
    unfold decode at h
    split at h
    · next r hfind =>
      obtain ⟨hr, hmatch⟩ := find?_row_eq_some_iff.1 hfind
      cases h
      exact ⟨r, hr, hmatch, rfl⟩
    · cases h
  · rintro ⟨r, hr, hmatch, rfl⟩
    rw [decode, find?_row_eq_some_iff.2 ⟨hr, hmatch⟩]

/-- The words that decode are the encodings of the well-formed commands (R168, R170, R173). -/
theorem decode_eq_ok_iff {w : Word} {i : Instr} : decode w = .ok i ↔ i.wf = true ∧ encode i = w := by
  rw [decode_eq_ok_iff_row]
  constructor
  · rintro ⟨r, hr, hmatch, rfl⟩
    exact (row_match_iff_encode hr w).1 hmatch
  · rintro ⟨hwf, rfl⟩
    obtain ⟨r, hr, hbuild⟩ := exists_opcodeRow i
    refine ⟨r, hr, (row_match_iff_encode hr _).2 ?_, ?_⟩ <;> rw [codeField_encode, hbuild]
    exact ⟨hwf, rfl⟩

theorem decode_eq_error_iff {w : Word} :
    (∃ e, decode w = .error e) ↔ ∀ r ∈ opcodeRows, w &&& r.mask ≠ r.pattern := by
  constructor
  · rintro ⟨e, he⟩ r hr hmatch
    rw [decode_eq_ok_iff_row.2 ⟨r, hr, hmatch, rfl⟩] at he
    cases he
  · intro hnone
    cases h : decode w with
    | error e => exact ⟨e, rfl⟩
    | ok i =>
      obtain ⟨r, hr, hmatch, -⟩ := decode_eq_ok_iff_row.1 h
      exact absurd hmatch (hnone r hr)

/-- Settles O13: a word matches a row exactly when it is the encoding of the row's command, and every command has a
row. -/
theorem decodeAndEncodeAgree : Obligations.DecodeAndEncodeAgree := fun _ _ => decode_eq_ok_iff

/-- Settles O12: the row found is the one matching row, since the rows exclude each other. -/
theorem decodingFollowsTheOpcodeMap : Obligations.DecodingFollowsTheOpcodeMap :=
  ⟨fun _ _ => decode_eq_ok_iff_row, row_match_unique, fun _ => decode_eq_error_iff, fun _ => rfl⟩

/-- Settles O11: each word is the encoding of its command. -/
theorem sampleCommandWordsDecode : Obligations.SampleCommandWordsDecode := by
  refine ⟨?_, ?_, ?_, ?_, ?_, ?_, ?_, ?_⟩ <;> exact decode_eq_ok_iff.2 ⟨rfl, rfl⟩

/-! Illegal words (R172, R204) -/

/-- The opcode map as OP, SEL and the bits of CODE that must be 0, row by row. -/
theorem forall_row_fields {P : BitVec 4 → BitVec 4 → BitVec 4 → Prop} :
    (∀ r ∈ opcodeRows, P (opField r.pattern) (selField r.pattern) (codeField r.mask)) ↔
      P 0 0 0xF ∧ P 1 0 0xF ∧ P 2 0 0xF ∧ P 2 1 0xF ∧ P 3 0 0xF ∧ P 4 0 0xC ∧ P 4 1 0x8 ∧ P 4 2 0xE ∧ P 4 3 0xE ∧
        P 4 4 0xE ∧ P 4 5 0x8 ∧ P 4 6 0xE ∧ P 5 0 0xF := by
  simp [opcodeRows, opField, selField, codeField]

/-- The OP, SEL and CODE that no row has are those R172 lists: an OP without a row, else a SEL that
the OP does not have, else a CODE that the OP does not have or that is too wide for the table. -/
theorem no_row_fields_iff (op sel code : BitVec 4) :
    (∀ r ∈ opcodeRows, ¬(code &&& codeField r.mask = 0 ∧ sel = selField r.pattern ∧ op = opField r.pattern)) ↔
      6 ≤ op ∨ (op ∈ [0, 1, 3, 5] ∧ sel ≠ 0) ∨ (op = 2 ∧ 2 ≤ sel) ∨ (op = 4 ∧ 7 ≤ sel) ∨ (op ≠ 4 ∧ code ≠ 0) ∨
        (op = 4 ∧ sel = 0 ∧ 4 ≤ code) ∨ (op = 4 ∧ sel ∈ [1, 5] ∧ 8 ≤ code) ∨
        (op = 4 ∧ sel ∈ [2, 3, 4, 6] ∧ 2 ≤ code) := by
  -- the bits of CODE that a mask compares bound CODE by the width of the table
  have hnone : ∀ c : BitVec 4, c &&& 15#4 = 0#4 ↔ c = 0#4 := by decide
  have htwo : ∀ c : BitVec 4, c &&& 12#4 = 0#4 ↔ ¬4#4 ≤ c := by decide
  have hthree : ∀ c : BitVec 4, c &&& 8#4 = 0#4 ↔ ¬8#4 ≤ c := by decide
  have hone : ∀ c : BitVec 4, c &&& 14#4 = 0#4 ↔ ¬2#4 ≤ c := by decide
  have hselEncode : 2#4 ≤ sel ↔ sel ≠ 0#4 ∧ sel ≠ 1#4 := by revert sel; decide
  have hop : (6#4 ≤ op ∧ op ≠ 0#4 ∧ op ≠ 1#4 ∧ op ≠ 2#4 ∧ op ≠ 3#4 ∧ op ≠ 4#4 ∧ op ≠ 5#4) ∨
      (op = 0 ∨ op = 1 ∨ op = 3 ∨ op = 5) ∨ op = 2 ∨ op = 4 := by revert op; decide
  have hsel : (7#4 ≤ sel ∧ sel ≠ 0#4 ∧ sel ≠ 1#4 ∧ sel ≠ 2#4 ∧ sel ≠ 3#4 ∧ sel ≠ 4#4 ∧ sel ≠ 5#4 ∧ sel ≠ 6#4) ∨
      sel = 0 ∨ sel = 1 ∨ sel = 2 ∨ sel = 3 ∨ sel = 4 ∨ sel = 5 ∨ sel = 6 := by revert sel; decide
  rw [forall_row_fields (P := fun o s m => ¬(code &&& m = 0 ∧ sel = s ∧ op = o))]
  rcases hop with hillegal | hplain | hencode | hlookup
  · simp [hillegal]
  · rcases hplain with rfl | rfl | rfl | rfl <;> simp [hnone, imp_iff_not_or, or_comm]
  · simp [hencode, hnone, hselEncode, imp_iff_not_or, or_and_left, or_comm]
  · subst hlookup
    rcases hsel with hillegal | htable
    · simp [hillegal]
    · rcases htable with rfl | rfl | rfl | rfl | rfl | rfl | rfl <;> simp [htwo, hthree, hone]

/-- A word matches no row exactly when a bit of 31:12 is set or no row has its OP, SEL and CODE. -/
theorem no_row_match_iff_fields (w : Word) : (∀ r ∈ opcodeRows, w &&& r.mask ≠ r.pattern) ↔
    w.extractLsb' 12 20 ≠ 0 ∨ ∀ r ∈ opcodeRows,
      ¬(codeField w &&& codeField r.mask = 0 ∧ selField w = selField r.pattern ∧ opField w = opField r.pattern) := by
  rw [forall₂_congr fun r hr => not_congr (row_match_iff_fields hr w)]
  by_cases hhigh : w.extractLsb' 12 20 = 0#20 <;> simp [hhigh]

/-- Outside a run the take of an illegal word records ILLEGAL_COMMAND and nothing else (R204). -/
theorem writeCmd_illegal_idle {s : State} {w : Word} {e : Illegal} (hp : s.block.phase = .idle)
    (he : decode w = .error e) : writeCmd w s = .next { s with block := { s.block with
      done := false, ovr := false, err := true, errClass := .illegalCommand, errCode := 0 } } := by
  simp only [writeCmd, he]
  exact takeIllegal_idle hp

/-- Settles O14: a word is illegal when it matches no row, and so for its bits 31:12 or for its OP, SEL and CODE. -/
theorem illegalWordsAreThoseOfTheRule : Obligations.IllegalWordsAreThoseOfTheRule := by
  refine ⟨fun w => ?_, fun s w e hp he => ?_⟩
  · exact decode_eq_error_iff.trans ((no_row_match_iff_fields w).trans (or_congr_right (no_row_fields_iff _ _ _)))
  · exact ⟨_, (hostWrite_cmd w s).trans (writeCmd_illegal_idle hp he), OnlyBlock.withBlock .., rfl⟩

/-! WAITIDLE (R176) -/

/-- One poll gives the host the STATUS word, and WAITIDLE stays in the program while its BUSY bit is 1. -/
theorem hostOp_waitIdle (s : State) : hostOp .waitIdle s = .next { s with host :=
    { program := if s.block.busy then .waitIdle :: s.host.program else s.host.program
      data := s.block.statusWord } } := by
  obtain ⟨hbusy, -⟩ := s.block.statusWord_flags
  simp only [hostOp, hbusy, hostRead, Block.hostValue_offset, Block.readReg]
  cases s.block.busy <;> rfl

/-- Settles O32: the step is one poll, and its two continuations are those of the BUSY bit read. -/
theorem waitIdlePollsStatusUntilIdle : Obligations.WaitIdlePollsStatusUntilIdle := by
  intro s ops ts
  rw [step_host rfl rfl, hostOp_waitIdle]
  exact ⟨_, rfl, rfl, rfl, rfl, rfl, fun hbusy => if_pos hbusy, fun hidle => if_neg (by simp [hidle])⟩

end Sys2Proof.Machine
end

section
/-! The QSPI payload and its three places in the word (30_encoding.md R165, R166). -/

namespace Sys2Proof.Machine

/-- A field put back where it was read keeps the bits of its place. -/
theorem putBits_getBits (w : Word) (lo n : Nat) :
    putBits (getBits w lo n) lo = w &&& (((1 <<< n) - 1 : Word) <<< lo) := by
  refine BitVec.eq_of_getLsbD_eq fun i hi => ?_
  rw [getLsbD_putBits, getLsbD_getBits, BitVec.getLsbD_and, BitVec.getLsbD_shiftLeft, getLsbD_lowMask]
  grind

theorem gatherQ_eq_or_shifts (w : Word) : gatherQ w = (((w.extractLsb' 2 3).setWidth 24) |||
    ((w.extractLsb' 9 7).setWidth 24 <<< 3) ||| ((w.extractLsb' 17 14).setWidth 24 <<< 10)) := by
  refine BitVec.eq_of_getLsbD_eq fun i hi => ?_
  simp only [gatherQ, getBits, BitVec.getLsbD_append, BitVec.getLsbD_or, BitVec.getLsbD_shiftLeft,
    BitVec.getLsbD_setWidth]
  grind

/-- The three parts of the gathered payload are the three fields of the word. -/
theorem gatherQ_fields (w : Word) : (gatherQ w).extractLsb' 0 3 = getBits w 2 3 ∧
    (gatherQ w).extractLsb' 3 7 = getBits w 9 7 ∧ (gatherQ w).extractLsb' 10 14 = getBits w 17 14 :=
  ⟨BitVec.extractLsb'_append_eq_right,
    (BitVec.extractLsb'_append_eq_of_le (by decide)).trans BitVec.extractLsb'_append_eq_right,
    (BitVec.extractLsb'_append_eq_of_le (by decide)).trans BitVec.extractLsb'_append_eq_left⟩

theorem scatterQ_gatherQ (w : Word) : scatterQ (gatherQ w) = w &&& 0x7FFEFE1C := by
  obtain ⟨hlow, hmid, hhigh⟩ := gatherQ_fields w
  rw [scatterQ, hlow, hmid, hhigh, putBits_getBits, putBits_getBits, putBits_getBits, ← BitVec.and_or_distrib_left,
    ← BitVec.and_or_distrib_left]
  rfl

/-- Every scattered payload is one gathered and scattered again, so it stays inside QPAY. -/
theorem scatterQ_and_not_qpay (q : BitVec 24) : scatterQ q &&& ~~~0x7FFEFE1C = 0 := by
  have hqpay : scatterQ q = scatterQ q &&& 0x7FFEFE1C := by rw [← scatterQ_gatherQ, gatherQ_scatterQ]
  rw [hqpay, BitVec.and_assoc, BitVec.and_not_self]
  exact BitVec.and_zero

/-- Settles O51: each field returns to its place, and the three places make up QPAY. -/
theorem qspiGatherScatterAreInverse : Obligations.QspiGatherScatterAreInverse :=
  ⟨gatherQ_eq_or_shifts, fun _ => rfl, scatterQ_and_not_qpay, gatherQ_scatterQ, scatterQ_gatherQ⟩

end Sys2Proof.Machine
end

section
/-! The commands of 40_command.md: what the take changes, during a run (R200) and outside one (R201, R203). -/

namespace Sys2Proof.Machine

/-! A command during a run (R200, R112) -/

/-- Settles O15: every command goes through the one take, which a run in progress drops. -/
theorem commandIsDroppedWhileBusy : Obligations.CommandIsDroppedWhileBusy := by
  intro i s hb
  exact ⟨_, exec_busy i hb, .withBlock s _, rfl⟩

/-! A command outside a run (R201, R203) -/

/-- A command taken outside a run changes the block alone, by its effect on the cleared block. -/
theorem exec_idle_onlyBlock (i : Instr) {s : State} (h : s.block.phase = .idle) :
    ∃ t, exec i s = .next t ∧ OnlyBlock s t ∧ t.block = commandEffect i s.block.clearForTake :=
  ⟨_, exec_idle i h, .withBlock s _, rfl⟩

/-- The flags a pure command leaves: the error record and OVR are cleared, and DONE is set. -/
theorem Block.clearForTake_setDone (b : Block) : b.clearForTake.setDone =
    { b with done := true, err := false, errClass := .none, ovr := false, errCode := 0 } := rfl

/-- Settles O16: NOP has no effect besides the clearing of its take and DONE. -/
theorem nopClearsErrorsAndSetsDone : Obligations.NopClearsErrorsAndSetsDone := by
  refine ⟨decode_eq_ok_iff.2 ⟨rfl, rfl⟩, fun s hp => ?_⟩
  obtain ⟨t, hexec, honly, hblock⟩ := exec_idle_onlyBlock .nop hp
  have hnop : commandEffect .nop s.block.clearForTake = s.block.clearForTake.setDone := rfl
  rw [hnop, Block.clearForTake_setDone] at hblock
  exact ⟨t, hexec, honly, hblock⟩

end Sys2Proof.Machine
end

section
/-! The codec and its commands (41_codec.md): what each command writes (R233 to R235), the fields of a decoded word
(R230, R231), and which bits a word keeps through decode and encode (R236 to R238). -/

namespace Sys2Proof.Machine

/-! The bits that encode and decode keep (R155, R236) -/

/-- A variant's payload fields return to their places: the places KEEP gives meaning to outside the common fields. -/
theorem encodePayload_decodePayload (v : Variant) (w : Word) :
    encodePayload (decodePayload v w) = w &&& (keepMask v &&& ~~~(keepMask .rsvd)) := by
  cases v with
  | qspi => exact scatterQ_gatherQ w
  | sd | mmc =>
    rw [decodePayload, encodePayload, putBits_getBits, putBits_getBits, ← BitVec.and_or_distrib_left]
    rfl
  | rsvd => exact BitVec.and_zero.symm

/-- Every field returns to its place, and the common fields' places are those of the reserved variant's KEEP. -/
theorem encodeRcw_decodeRcw (w : Word) :
    encodeRcw (decodeRcw w) = w &&& keepMask (variantOf (getBits w 5 3)) := by
  rw [encodeRcw, decodeRcw, encodePayload_decodePayload]
  simp only [putBits_getBits, ← BitVec.and_or_distrib_left]
  cases variantOf (getBits w 5 3) <;> rfl

theorem and_eq_self_iff_and_not_eq_zero (w k : Word) : w &&& k = w ↔ w &&& ~~~k = 0 := by
  constructor
  · intro hkept
    rw [← hkept, BitVec.and_assoc, BitVec.and_not_self]
    exact BitVec.and_zero
  · intro hnone
    calc w &&& k = (w &&& k) ||| (w &&& ~~~k) := by rw [hnone]; exact BitVec.or_zero.symm
      _ = w := by rw [← BitVec.and_or_distrib_left, BitVec.or_not_self, BitVec.and_allOnes]

/-- An encoded configuration is what encode and decode keep of it. -/
theorem encodeRcw_and_keepMask {c : Cfg} (h : c.wf = true) :
    encodeRcw c &&& keepMask (variantOf c.boot) = encodeRcw c := by
  obtain ⟨-, hboot, -⟩ := encodeRcw_common c
  rw [← hboot, ← encodeRcw_decodeRcw, decodeRcw_encodeRcw h]

/-- Settles O53: encode after decode is the mask KEEP, which for QSPI is every bit. -/
theorem encodeOfDecodeKeepsMeaningfulBits : Obligations.EncodeOfDecodeKeepsMeaningfulBits := by
  refine ⟨rfl, fun w => ⟨encodeRcw_decodeRcw w, fun hboot => ?_, fun _ => ?_⟩⟩
  · have hqspi : variantOf (getBits w 5 3) = .qspi := variantOf_qspi.2 hboot
    rw [encodeRcw_decodeRcw, hqspi]
    exact BitVec.and_allOnes
  · rw [encodeRcw_decodeRcw]
    exact and_eq_self_iff_and_not_eq_zero w _

/-- Settles O54: every field is read from the encoding at its place. -/
theorem decodeOfEncodedCfgIsTheCfg : Obligations.DecodeOfEncodedCfgIsTheCfg := fun _ => decodeRcw_encodeRcw

/-- Settles O55: an encoded word is kept whole by its variant's mask. -/
theorem encodeSetsNoReservedBit : Obligations.EncodeSetsNoReservedBit := fun _ hwf =>
  (and_eq_self_iff_and_not_eq_zero _ _).1 (encodeRcw_and_keepMask hwf)

/-! The commands of the codec, taken outside a run (R233 to R235) -/

/-- Settles O17: the take leaves RAW as it was, so CFG is decoded from the RAW before the step. -/
theorem decodeCommandWritesCfgFromRaw : Obligations.DecodeCommandWritesCfgFromRaw :=
  ⟨decode_eq_ok_iff.2 ⟨rfl, rfl⟩, fun _ hidle => exec_idle_onlyBlock .decode hidle⟩

/-- Settles O18: the take leaves CFG as it was, so WOUT is encoded from the CFG before the step. -/
theorem encodeCfgWritesWout : Obligations.EncodeCfgWritesWout :=
  ⟨decode_eq_ok_iff.2 ⟨rfl, rfl⟩, fun _ hidle => exec_idle_onlyBlock .encodeCfg hidle⟩

/-- Settles O19: the take leaves WORK as it was, so WOUT is encoded from the WORK before the step. -/
theorem encodeWorkWritesWout : Obligations.EncodeWorkWritesWout :=
  ⟨decode_eq_ok_iff.2 ⟨rfl, rfl⟩, fun _ hidle => exec_idle_onlyBlock .encodeWork hidle⟩

/-! The fields of a decoded word (R150 to R154, R230, R231) -/

/-- The payload is decoded under the variant the boot code selects. -/
theorem decodeRcw_pay {w : Word} {v : Variant} (h : variantOf (w.extractLsb' 5 3) = v) :
    (decodeRcw w).pay = decodePayload v w := congrArg (decodePayload · w) h

/-- The boot codes without a variant of their own are the five reserved ones (R31). -/
theorem variantOf_of_reserved_code : ∀ b ∈ ([1, 4, 5, 6, 7] : List (BitVec 3)), variantOf b = .rsvd := by decide

/-- Settles O52: the common fields are decoded by position, and the payload by the variant of the boot code. -/
theorem everyWordDecodesToTheRulesFields : Obligations.EveryWordDecodesToTheRulesFields := by
  refine fun w =>
    ⟨decodeRcw_wf w, rfl, rfl, rfl, rfl, rfl, fun hqspi => ?_, fun hsd => ?_, fun hmmc => ?_, fun hrsvd => ?_⟩
  · exact decodeRcw_pay (variantOf_qspi.2 hqspi)
  · exact decodeRcw_pay (variantOf_sd.2 hsd)
  · exact decodeRcw_pay (variantOf_mmc.2 hmmc)
  · exact decodeRcw_pay (variantOf_of_reserved_code _ hrsvd)

end Sys2Proof.Machine
end

section
/-! The descriptor tables and the LOOKUP commands (42_descriptors.md): the codes each table labels (R261), the durations
of WAIT (R263), the fields of LKP (R63, R262) and what a LOOKUP command changes (R270 to R276). -/

namespace Sys2Proof.Machine

/-! The seven tables (R261) -/

/-- The LOOKUP command of a table (R270 to R276). -/
def Table.command : Table → BitVec 4 → Instr
  | .phy => .lookupPhy
  | .boot => .lookupBoot
  | .src => .lookupSrc
  | .xosc => .lookupXosc
  | .pll => .lookupPll
  | .wait => .lookupWait
  | .speed => .lookupSpeed

/-- The codes to which R261 gives a label. -/
def Table.labelledCodes : Table → List (BitVec 4)
  | .phy => [0, 1, 2, 3]
  | .boot => [0, 2, 3]
  | .src | .xosc | .pll | .speed => [0, 1]
  | .wait => [0, 1, 2, 3, 4, 7]

theorem known_iff_mem_labelledCodes (t : Table) (c : BitVec 4) : known t c = true ↔ c ∈ t.labelledCodes := by
  revert c
  cases t <;> decide

theorem Table.eq_wait_of_number_eq {t : Table} (h : t.number = 5) : t = .wait := by
  cases t with
  | wait => rfl
  | phy | boot | src | xosc | pll | speed => exact absurd h (by decide)

/-- Each row of R261 is one table: its command, its number and the codes it labels. -/
theorem exists_table_of_mem_rows {i : Instr} {c table : BitVec 4} {labelled : List (BitVec 4)}
    (h : (i, table, labelled) ∈ [(.lookupPhy c, 0, [0, 1, 2, 3]), (.lookupBoot c, 1, [0, 2, 3]),
      (.lookupSrc c, 2, [0, 1]), (.lookupXosc c, 3, [0, 1]), (.lookupPll c, 4, [0, 1]),
      (.lookupWait c, 5, [0, 1, 2, 3, 4, 7]),
      (Instr.lookupSpeed c, (6 : BitVec 4), ([0, 1] : List (BitVec 4)))]) :
    ∃ t : Table, i = t.command c ∧ table = t.number ∧ labelled = t.labelledCodes := by
  simp only [List.mem_cons, List.not_mem_nil, or_false, Prod.mk.injEq] at h
  rcases h with h | h | h | h | h | h | h
  exacts [⟨.phy, h⟩, ⟨.boot, h⟩, ⟨.src, h⟩, ⟨.xosc, h⟩, ⟨.pll, h⟩, ⟨.wait, h⟩, ⟨.speed, h⟩]

/-! The duration of a lookup (R262, R263) -/

theorem waitMs_isSome (c : BitVec 4) : (waitMs c).isSome = known .wait c := by revert c; decide

theorem waitMs_of_mem_durations {c : BitVec 4} {ms : BitVec 8} (h : (c, ms) ∈ ([(0, 0), (1, 5), (2, 10), (3, 20),
    (4, 35), (7, 50)] : List (BitVec 4 × BitVec 8))) : waitMs c = some ms := by
  simp only [List.mem_cons, List.not_mem_nil, or_false, Prod.mk.injEq] at h
  rcases h with ⟨rfl, rfl⟩ | ⟨rfl, rfl⟩ | ⟨rfl, rfl⟩ | ⟨rfl, rfl⟩ | ⟨rfl, rfl⟩ | ⟨rfl, rfl⟩ <;> rfl

theorem lookupMs_of_waitMs {c : BitVec 4} {ms : BitVec 8} (h : waitMs c = some ms) : lookupMs .wait c = ms := by
  rw [lookupMs, if_pos rfl, h, Option.getD_some]

theorem lookupMs_of_ne_wait {t : Table} (h : t ≠ .wait) (c : BitVec 4) : lookupMs t c = 0 := if_neg h

theorem lookupMs_of_unknown {t : Table} {c : BitVec 4} (h : known t c = false) : lookupMs t c = 0 := by
  by_cases hwait : t = .wait
  · subst hwait
    have hnone : waitMs c = none := Option.not_isSome_iff_eq_none.1 (by simp [waitMs_isSome, h])
    rw [lookupMs, if_pos rfl, hnone, Option.getD_none]
  · exact lookupMs_of_ne_wait hwait c

/-! The word of a lookup (R63) -/

theorem lookupWord_known (t : Table) (c : BitVec 4) : (lookupWord t c).getLsbD 8 = known t c := by
  simp only [lookupWord, BitVec.getLsbD_append]
  simp

theorem lookupWord_fields (t : Table) (c : BitVec 4) :
    (lookupWord t c).extractLsb' 0 4 = t.number ∧ (lookupWord t c).extractLsb' 4 4 = c ∧
      (lookupWord t c).extractLsb' 9 7 = 0 ∧ (lookupWord t c).extractLsb' 16 8 = lookupMs t c ∧
      (lookupWord t c).extractLsb' 24 8 = 0 := by
  simp only [extractLsb'_eq_iff, lookupWord, BitVec.getLsbD_append]
  refine ⟨?_, ?_, ?_, ?_, ?_⟩ <;> grind

/-! The LOOKUP commands, taken outside a run (R262, R270 to R276) -/

theorem commandEffect_lookup (t : Table) (c : BitVec 4) (b : Block) :
    commandEffect (t.command c) b = { b with lkp := lookupWord t c }.setDone := by cases t <;> rfl

/-- Settles O21: a row of the list is a table, whose command leaves `lookupWord` in LKP; its fields are read at their
places, and MS is the duration of a known WAIT code. -/
theorem lookupWritesTheTableEntry : Obligations.LookupWritesTheTableEntry := by
  intro s c table i labelled hrow hidle
  obtain ⟨t, rfl, rfl, rfl⟩ := exists_table_of_mem_rows hrow
  obtain ⟨s', hexec, honly, hblock⟩ := exec_idle_onlyBlock (t.command c) hidle
  rw [commandEffect_lookup] at hblock
  obtain ⟨htable, hcode, hlow, hms, hhigh⟩ := lookupWord_fields t c
  have hknown := known_iff_mem_labelledCodes t c
  refine ⟨s', hexec, honly, ?_⟩
  rw [hblock]
  refine ⟨rfl, htable, hcode, ?_, fun hno => hms.trans ?_, fun ms hwait hmem => hms.trans ?_, hlow, hhigh⟩
  · exact (Bool.eq_iff_iff.1 (lookupWord_known t c)).trans hknown
  · rcases hno with hother | hunlabelled
    · exact lookupMs_of_ne_wait (fun h => hother (by rw [h]; rfl)) c
    · exact lookupMs_of_unknown (Bool.eq_false_iff.2 (mt hknown.1 hunlabelled))
  · rw [Table.eq_wait_of_number_eq hwait]
    exact lookupMs_of_waitMs (waitMs_of_mem_durations hmem)

end Sys2Proof.Machine
end

section
/-! The update policy (43_update_policy.md): what the plan reaches (R291, R297, R298), what it leaves (R299), when a delta
is empty (R293, R294), and the command PLAN (R296). -/

namespace Sys2Proof.Machine

/-! The delta of two configurations (R293, R294) -/

theorem deltaMask_ofCfg_eq_zero_iff {c d : Cfg} : deltaMask (FieldRegs.ofCfg c) (FieldRegs.ofCfg d) = 0 ↔ c = d := by
  refine ⟨Cfg.eq_of_deltaMask_eq_zero, ?_⟩
  rintro rfl
  exact (deltaMask_eq_zero_iff _ _).2 fun _ => rfl

/-- Settles O60: the fields determine the configuration, whether or not it is well-formed. -/
theorem deltaIsEmptyExactlyWhenEqual : Obligations.DeltaIsEmptyExactlyWhenEqual :=
  fun _ _ _ _ => deltaMask_ofCfg_eq_zero_iff

/-! The plan in closed form (R291) -/

/-- Step 2 leaves the boot code at the target, and the payload reset unless the boot code stood there before (R292). -/
theorem planBoot_eq (t : BitVec 3) (c : Cfg) : planBoot t c =
    { c with boot := t, pay := if c.boot = t then c.pay else zeroPayload (variantOf t) } := by
  unfold planBoot
  by_cases hstay : c.boot = t
  · subst hstay
    rw [if_neg (not_not.2 rfl), if_pos rfl]
  · rw [if_pos hstay, if_neg hstay]

/-- Step 3 fires under SD only (R292). -/
theorem planSd_of_not_sd {c : Cfg} (h : c.boot ≠ 2) : planSd c = c := if_neg (mt variantOf_sd.1 h)

/-- The three steps together, for every target code. -/
theorem plan_eq {c : Cfg} (t : BitVec 3) (h : c.wf = true) : plan c t =
    { c with
      src := 1, boot := t
      pay := if t = 2 then .sd 7 1 else if c.boot = t then c.pay else zeroPayload (variantOf t) } := by
  have hwf := planBoot_wf t (planSource_wf h)
  rw [plan]
  rw [planSource_eq, planBoot_eq] at hwf ⊢
  by_cases ht : t = 2
  · rw [planSd_of_sd hwf ht, if_pos ht]
  · rw [planSd_of_not_sd ht, if_neg ht]

/-- A plan meets the condition of no step, so planning it again changes nothing (R297). -/
theorem plan_plan {c : Cfg} (t : BitVec 3) (h : c.wf = true) : plan (plan c t) t = plan c t := by
  rw [plan_eq t (plan_wf t h), plan_eq t h]
  by_cases ht : t = 2
  · simp only [ht, if_true]
  · simp only [ht, if_true, if_false]

/-- Settles O56: the second plan is the first, and equal configurations have an empty delta. -/
theorem planIsIdempotent : Obligations.PlanIsIdempotent := fun _ t hwf _ =>
  ⟨plan_plan t hwf, deltaMask_ofCfg_eq_zero_iff.2 (plan_plan t hwf).symm⟩

/-! The payload's bits in the encoded plan (R298) -/

/-- The QSPI payload's places, which cover those of SD and MMC, hold nothing but the payload (R155, R165). -/
theorem encodeRcw_and_qpay (c : Cfg) : encodeRcw c &&& 0x7FFEFE1C = encodePayload c.pay &&& 0x7FFEFE1C := by
  have hgather : gatherQ (encodeRcw c) = gatherQ (encodePayload c.pay) := by
    simp only [gatherQ]
    rw [getBits_encodeRcw_payload (by decide), getBits_encodeRcw_payload (by decide),
      getBits_encodeRcw_payload (by decide)]
  rw [← scatterQ_gatherQ, ← scatterQ_gatherQ, hgather]

/-- Settles O57: the closed form of the plan for the three targets; after a switch to SD the payload's places hold the
plan's own SD payload and no bit of an earlier one. -/
theorem planReachesTheKnownGoodSettings : Obligations.PlanReachesTheKnownGoodSettings := by
  intro c t hwf ht
  have hplan := plan_eq t hwf
  refine ⟨plan_wf t hwf, ?_, fun hother hsd => ⟨?_, ?_⟩⟩
  · rw [hplan]
    rcases ht with rfl | rfl | rfl <;> rfl
  · subst hsd
    rw [planSource_eq, planBoot_eq]
    exact if_neg hother
  · have hpayload : encodePayload (.sd 7 1) &&& 0x7FFEFE1C = 0x001E0000 := by decide
    rw [encodeRcw_and_qpay, hplan, if_pos hsd, hpayload]

/-! What the plan leaves (R299) -/

/-- Settles O58: no step assigns phy, xosc or pll, so their registers agree in the delta. -/
theorem planKeepsPhyXoscPll : Obligations.PlanKeepsPhyXoscPll := by
  intro c t
  obtain ⟨hphy, hxosc, hpll⟩ := plan_sameBoard c t
  have hsub : (0x380 : Word) = 0xFFFFFF81 &&& 0x380 := rfl
  refine ⟨hphy, hxosc, hpll, ?_⟩
  rw [hsub, ← BitVec.and_assoc, deltaMask_plan_reserved]
  exact BitVec.zero_and

/-! The command PLAN, taken outside a run (R296) -/

theorem commandEffect_plan (b : Block) : commandEffect .plan b =
    { b with
      work := plan b.cfg b.target
      dold := FieldRegs.ofCfg b.cfg, dnew := FieldRegs.ofCfg (plan b.cfg b.target)
      dmask := deltaMask (FieldRegs.ofCfg b.cfg) (FieldRegs.ofCfg (plan b.cfg b.target))
      changed := deltaMask (FieldRegs.ofCfg b.cfg) (FieldRegs.ofCfg (plan b.cfg b.target)) != 0
      done := true } := rfl

/-- Settles O20: the take leaves CFG and TARGET as they were, so PLAN plans the CFG before the step; the registers and
DMASK are those of a delta. -/
theorem planCommandWritesWorkAndDelta : Obligations.PlanCommandWritesWorkAndDelta := by
  refine ⟨decode_eq_ok_iff.2 ⟨rfl, rfl⟩, fun s hidle => ?_⟩
  obtain ⟨-, -, -, -, -, hregs, hmask⟩ := deltaRegistersHoldTheEncodedFields
  obtain ⟨t, hexec, honly, hblock⟩ := exec_idle_onlyBlock .plan hidle
  rw [commandEffect_plan] at hblock
  obtain ⟨hbits, hreserved⟩ := hmask (FieldRegs.ofCfg s.block.cfg) (FieldRegs.ofCfg (plan s.block.cfg s.block.target))
  refine ⟨t, hexec, honly, ?_⟩
  rw [hblock]
  exact ⟨rfl, hregs _, hregs _, hbits, hreserved⟩

end Sys2Proof.Machine
end

section
/-! The update run (44_update_fsm.md): its take (R320), the block's reaction to each response (R321 to R331), and what
moves a run (R335). -/

namespace Sys2Proof.Machine

/-! The take of UPDATE (R320) -/

/-- Settles O22: the start of the run writes its flags, counters and DMASK on the block that the take has cleared. -/
theorem updateTakeStartsTheRun : Obligations.UpdateTakeStartsTheRun := by
  intro s hidle
  obtain ⟨t, hexec, honly, hblock⟩ := exec_idle_onlyBlock .update hidle
  refine ⟨t, hexec, honly, hblock, ?_⟩
  rw [hblock]
  rfl

/-! The reaction of each phase to a response (R120) -/

section Reaction

variable {b : Block}

theorem Block.onResponse_query (h : b.phase = .query) (p : Response) : b.onResponse p = b.onQuery p := by
  simp only [Block.onResponse, h]

theorem Block.onResponse_cancel (h : b.phase = .cancel) (p : Response) : b.onResponse p = b.onCancel p := by
  simp only [Block.onResponse, h]

theorem Block.onResponse_config (h : b.phase = .config) (p : Response) : b.onResponse p = b.onConfig p := by
  simp only [Block.onResponse, h]

theorem Block.onResponse_read (h : b.phase = .read) (p : Response) : b.onResponse p = b.onRead p := by
  simp only [Block.onResponse, h]

theorem Block.onResponse_write (h : b.phase = .write) (p : Response) : b.onResponse p = b.onWrite p := by
  simp only [Block.onResponse, h]

theorem Block.onResponse_readback (h : b.phase = .readback) (p : Response) : b.onResponse p = b.onReadback p := by
  simp only [Block.onResponse, h]

/-- Both phases that wait for a Read take an error to it alike (R324, R330). -/
theorem Block.onResponse_readErr (h : b.phase = .read ∨ b.phase = .readback) (c : Word) :
    b.onResponse (.err c) = some (b.raiseError .txnReadFailed c) := by
  rcases h with h | h
  · rw [Block.onResponse_read h, Block.onRead]
  · rw [Block.onResponse_readback h, Block.onReadback]

/-- Both phases that wait for a Read take a Data of another length than 4 alike (R325, R330). -/
theorem Block.onResponse_readShort (h : b.phase = .read ∨ b.phase = .readback) {bs : List Byte} (hbs : bs.length ≠ 4) :
    b.onResponse (.data bs) = some (b.raiseError .shortRead (BitVec.ofNat 32 bs.length)) := by
  rcases h with h | h
  · rw [Block.onResponse_read h, Block.onRead, Block.onData_short b _ bs hbs, Block.raiseShortRead]
  · rw [Block.onResponse_readback h, Block.onReadback, Block.onData_short b _ bs hbs, Block.raiseShortRead]

/-- Four bytes in phase READ are taken as one word (R326). -/
theorem Block.onResponse_readWord (h : b.phase = .read) (r : Word) :
    b.onResponse (.data (bytesLE r)) = some (b.onWordRead r) := by
  rw [Block.onResponse_read h, Block.onRead, Block.onData_bytesLE]

/-- Four bytes in phase READBACK are taken as one word (R331). -/
theorem Block.onResponse_readbackWord (h : b.phase = .readback) (r : Word) :
    b.onResponse (.data (bytesLE r)) = some (b.onWordReadBack r) := by
  rw [Block.onResponse_readback h, Block.onReadback, Block.onData_bytesLE]

/-- Outside a run the block reacts to no response. -/
theorem Block.busy_of_onResponse {b' : Block} {p : Response} (h : b.onResponse p = some b') : b.busy = true := by
  rw [Block.busy_eq_true_iff]
  intro hidle
  simp [Block.onResponse, hidle] at h

end Reaction

/-- A response that makes the block raise an error ends the run, whatever the phase (R403). -/
theorem step_answer_raises (s : State) (ts : List Turn) {p : Response} {r : Request} {k : ErrClass} {c : Word}
    (hr : s.block.req = some r) (ha : r.admits p = true) (ho : s.block.onResponse p = some (s.block.raiseError k c)) :
    step { s with turns := .answer p :: ts } = .next { s with
      turns := ts
      block := { s.block with
        err := true, errClass := k, errCode := c, done := false, phase := .idle, req := none }
      transport := s.transport.settle r p } := by
  rw [step_answer_of s ts p hr ha ho, Block.raiseError_busy _ _ _ (Block.busy_of_onResponse ho)]

/-! From Query to the Read (R321 to R323) -/

/-- Settles O35: each answer has its one reaction, and neither Query's answers nor Cancel's touch the EEPROM. -/
theorem preflightAnswersSelectTheNextPhase : Obligations.PreflightAnswersSelectTheNextPhase := by
  rintro s ts p b (⟨hq, hr, ⟨c, rfl, rfl⟩ | ⟨rfl, rfl⟩ | ⟨rfl, rfl⟩⟩ | ⟨hc, hr, rfl, rfl⟩)
  · exact ⟨_, step_answer_raises s ts hr rfl (Block.onResponse_query hq _), rfl, rfl, rfl, rfl, rfl⟩
  · exact ⟨_, step_answer_of s ts _ hr rfl (Block.onResponse_query hq _), rfl, rfl, rfl, rfl, rfl⟩
  · exact ⟨_, step_answer_of s ts _ hr rfl (Block.onResponse_query hq _), rfl, rfl, rfl, rfl, rfl⟩
  · exact ⟨_, step_answer_of s ts _ hr rfl (Block.onResponse_cancel hc _), rfl, rfl, rfl, rfl, rfl⟩

/-- Settles O36: the error ends the run, and the Ok places the Read of the word at ADDR. -/
theorem configureAnswerLeadsToRead : Obligations.ConfigureAnswerLeadsToRead := by
  intro s ts d hp hr
  exact ⟨fun c => step_answer_raises s ts hr rfl (Block.onResponse_config hp _),
    step_answer_of s ts _ hr rfl (Block.onResponse_config hp _)⟩

/-! The answers to a Read (R324 to R331) -/

/-- Settles O37: READ and READBACK share both reactions, and a length up to MAX_XFER is held exactly in ERRCODE. -/
theorem failedReadEndsTheRun : Obligations.FailedReadEndsTheRun := by
  intro s ts a o n hp hr
  refine ⟨fun c => step_answer_raises s ts hr rfl (Block.onResponse_readErr hp c), fun bs hmax hbs => ?_⟩
  have hadmits : (Request.read a o n).admits (.data bs) = true := admits_read_iff.2 (.inl ⟨bs, rfl, hmax⟩)
  have hsmall : bs.length ≤ 60 := hmax
  refine ⟨_, step_answer_raises s ts hr hadmits (Block.onResponse_readShort hp hbs), rfl, ?_⟩
  exact (BitVec.toNat_ofNat _ _).trans (Nat.mod_eq_of_lt (by omega))

/-- Settles O38: the plan differs from the word's decode, so the delta is not empty; the delta registers and DMASK are
those of a delta. -/
theorem wordReadWithDeltaPlacesTheWrite : Obligations.WordReadWithDeltaPlacesTheWrite := by
  intro s ts a o n r hp hr hplan _
  obtain ⟨-, -, -, -, -, hregs, hmask⟩ := deltaRegistersHoldTheEncodedFields
  have hdelta : deltaMask (FieldRegs.ofCfg (decodeRcw r)) (FieldRegs.ofCfg (plan (decodeRcw r) s.block.target)) ≠ 0 :=
    fun h => hplan (deltaMask_ofCfg_eq_zero_iff.1 h).symm
  have hword := Block.onResponse_readWord hp r
  rw [Block.onWordRead_changed _ _ (bne_iff_ne.2 hdelta)] at hword
  obtain ⟨hbits, hreserved⟩ := hmask (FieldRegs.ofCfg (decodeRcw r))
    (FieldRegs.ofCfg (plan (decodeRcw r) s.block.target))
  exact ⟨_, step_answer_of s ts _ hr rfl hword, rfl, hdelta, hregs _, hregs _, hbits, hreserved⟩

/-- In phase READ the counters are those of one Read and no Write (R47). -/
theorem Block.progress_read {b : Block} (hp : b.phase = .read) (h : b.progressLegal = true) :
    b.wrote = false ∧ b.nread = 1 ∧ b.nwrite = 0 := by
  simp only [Block.progressLegal, hp, Block.progress, decide_eq_true_eq, Prod.mk.injEq] at h
  obtain ⟨hread, hwrite, hwrote⟩ := h
  exact ⟨hwrote, hread, hwrite⟩

/-- Settles O39: the plan equals the word's decode, so the delta is empty and the run ends with the counters of READ. -/
theorem wordReadWithoutDeltaEndsTheRun : Obligations.WordReadWithoutDeltaEndsTheRun := by
  intro s ts a o n r hp hr hplan
  have hword := Block.onResponse_readWord hp r
  rw [Block.onWordRead_unchanged _ _ (deltaMask_ofCfg_eq_zero_iff.2 hplan.symm), hplan] at hword
  exact ⟨_, step_answer_of s ts _ hr rfl hword, rfl, FieldRegs.ofCfg_get _, Block.progress_read hp⟩

/-- Settles O42: the word read back is stored and decoded, and the run ends. -/
theorem readBackConfirmsTheWord : Obligations.ReadBackConfirmsTheWord :=
  fun s ts _ _ _ r hp hr => step_answer_of s ts _ hr rfl (Block.onResponse_readbackWord hp r)

/-! The answers to the Write (R329) -/

/-- Settles O40: the four bytes are those of one word, which the EEPROM then holds. -/
theorem writeAckLeadsToReadBack : Obligations.WriteAckLeadsToReadBack := by
  intro s ts a b0 b1 b2 b3 hp hr
  have hstored := eepromReadBytes_writeBytes s.transport.eeprom a (wordLE b0 b1 b2 b3)
  rw [bytesLE_wordLE] at hstored
  exact ⟨_, step_answer_of s ts _ hr rfl (Block.onResponse_write hp _), rfl, rfl, rfl, rfl, hstored,
    fun k hk => eepromRead_writeBytes_other [b0, b1, b2, b3] _ a 0 k hk⟩

/-- Free values in `n` bytes of a slave leave every other byte (R114). -/
theorem Transport.scramble_read_other (t : Transport) (addr : SlaveAddr) (off : BitVec 8) (n : Nat) {k : Nat}
    (h : k ∉ eepromKeys addr off n) : eepromRead (t.scramble addr off n).eeprom k = eepromRead t.eeprom k :=
  eepromRead_writeBytes_other _ _ addr off k (by rwa [List.length_map, List.length_range])

/-- Settles O41: the error ends the run, and only the bytes being stored take free values. -/
theorem writeErrorEndsTheRun : Obligations.WriteErrorEndsTheRun := by
  intro s ts a o bs c hp hr
  exact ⟨_, step_answer_raises s ts hr rfl (Block.onResponse_write hp _), rfl, rfl, rfl, rfl, rfl,
    fun _ hk => s.transport.scramble_read_other a o bs.length hk⟩

/-! What moves a run (R335) -/

/-- During a run a host write is dropped with OVR where it is one to CMD or an RW register, and else changes nothing
(R112, R64). -/
theorem hostWrite_busy {off : BitVec 8} {v : Word} {s t : State} (hb : s.block.busy = true) (hal : off.toNat % 4 = 0)
    (h : hostWrite off v s = .next t) :
    t.block = s.block ∨ t.block = { s.block with ovr := true } ∧
      off ∈ ([0x00, 0x0C, 0x10, 0x14, 0x18, 0x1C, 0x20] : List (BitVec 8)) := by
  by_cases hoff : off ∈ ([0x00, 0x0C, 0x10, 0x14, 0x18, 0x1C, 0x20] : List (BitVec 8))
  · rw [writesAreDroppedWhileBusy s off v hb hoff] at h
    cases h
    exact .inr ⟨rfl, hoff⟩
  · obtain ⟨-, hignored⟩ := reservedAndReadOnlyOffsetsIgnoreWrites
    rw [hignored s off v hal hoff] at h
    cases h
    exact .inl rfl

/-- Settles O8: of the turns that are no response to the outstanding request and no reset, only the host's can change
the block, by a write that is dropped. -/
theorem onlyResponseOrResetMovesARun : Obligations.OnlyResponseOrResetMovesARun := by
  intro s t hb he hanswer henvironment hreset
  rcases step_cases he with ⟨-, rfl⟩ | ⟨u, ts, hts, hu⟩
  · exact .inl rfl
  · cases u with
    | host =>
      obtain ⟨-, -, hsame | ⟨off, v, ops, hprog, hal, hw, -⟩⟩ := hostTurn_cases hu
      · exact .inl hsame
      · have hwrite := hostWrite_busy (s := { s with turns := ts, host := { s.host with program := ops } }) hb hal hw
        exact hwrite.imp_right fun ⟨hovr, hoff⟩ => ⟨hovr, ts, off, v, ops, hts, hprog, hoff⟩
    | answer p => exact absurd hts (hanswer p ts)
    | environment => exact absurd hts (henvironment ts)
    | lateAnswer i p => obtain ⟨_, rfl⟩ := lateAnswer_cases hu; exact .inl rfl
    | reset => exact absurd hts (hreset ts)
    | eepromChange a o bs => cases hu; exact .inl rfl

end Sys2Proof.Machine
end

section
/-! The order of the requests of an update run (44_update_fsm.md R333, R334): every response leads to the end of the run
or to the phase of its next request, so what is placed from a phase on is the beginning of a fixed sequence. -/

namespace Sys2Proof.Machine

/-! Phases and their requests (R37, R334) -/

/-- The kind of the request that is outstanding in a phase (R37). -/
def Phase.requestKind : Phase → Option RequestKind
  | .idle => none
  | .query => some .query
  | .cancel => some .cancel
  | .config => some .configure
  | .read => some .read
  | .write => some .write
  | .readback => some .read

/-- The phases a response can lead to (R321 to R331). -/
def Phase.successors : Phase → List Phase
  | .idle => []
  | .query => [.idle, .cancel, .config]
  | .cancel => [.config]
  | .config => [.idle, .read]
  | .read => [.idle, .write]
  | .write => [.idle, .readback]
  | .readback => [.idle]

/-- The whole sequences of requests from a phase on, its own request first (R334). -/
def Phase.sequences : Phase → List (List RequestKind)
  | .idle => [[]]
  | .query => wholeSequences
  | .cancel => [[.cancel, .configure, .read, .write, .read]]
  | .config => [[.configure, .read, .write, .read]]
  | .read => [[.read, .write, .read]]
  | .write => [[.write, .read]]
  | .readback => [[.read]]

/-- The outstanding request is of the kind the phase names. -/
def Block.RequestFits (b : Block) : Prop := b.req.map Request.kind = b.phase.requestKind

/-- The kinds `ks` of requests are the beginning of a run's requests from phase `q` on. -/
def Phase.Begins (q : Phase) (ks : List RequestKind) : Prop := ∃ whole ∈ q.sequences, ks <+: whole

/-- The request of a phase begins its sequences. -/
theorem Phase.begins_requestKind (q : Phase) : q.Begins q.requestKind.toList := by
  unfold Phase.Begins
  cases q <;> decide

/-- A sequence from the next phase on, after the request of this one, is a sequence from this phase on. -/
theorem Phase.requestKind_append_sequences {q q' : Phase} (h : q' ∈ q.successors) :
    ∀ rest ∈ q'.sequences, ∃ whole ∈ q.sequences, q.requestKind.toList ++ rest <+: whole := by
  cases q <;> cases q' <;> revert h <;> decide

theorem Phase.Begins.cons {q q' : Phase} {ks : List RequestKind} (h : q' ∈ q.successors) (hks : q'.Begins ks) :
    q.Begins (q.requestKind.toList ++ ks) := by
  obtain ⟨_, hrest, later, rfl⟩ := hks
  obtain ⟨whole, hwhole, hpre⟩ := Phase.requestKind_append_sequences h _ hrest
  exact ⟨whole, hwhole, .trans ⟨later, List.append_assoc ..⟩ hpre⟩

/-! Each response leads to a successor -/

/-- A raise ends the run, and IDLE has no request. -/
theorem Block.raiseError_requestFits {b : Block} (hb : b.busy = true) (k : ErrClass) (c : Word) :
    (b.raiseError k c).RequestFits := by
  rw [Block.raiseError_busy b k c hb]
  rfl

/-- The step that reads the word ends the run or places the Write (R327). -/
theorem Block.onWordRead_cases (b : Block) (r : Word) :
    (b.onWordRead r).RequestFits ∧ ((b.onWordRead r).phase = .idle ∨ (b.onWordRead r).phase = .write) := by
  rw [Block.onWordRead_eq_afterPlan, Block.afterPlan]
  split
  · exact ⟨rfl, .inr rfl⟩
  · exact ⟨rfl, .inl rfl⟩

/-- Every reaction to a response leads to a successor phase, with that phase's request outstanding. -/
theorem ResponseEffect.successor {b b' : Block} {p : Response} (e : ResponseEffect b p b') (hb : b.busy = true) :
    b'.phase ∈ b.phase.successors ∧ b'.RequestFits := by
  cases e with
  | queryFailed c h | configFailed c h | writeFailed c h =>
    rw [Block.raiseError_phase, h]
    exact ⟨by decide, Block.raiseError_requestFits hb _ c⟩
  | readFailed c h =>
    rw [Block.raiseError_phase]
    refine ⟨?_, Block.raiseError_requestFits hb _ c⟩
    rcases h with h | h <;> rw [h] <;> decide
  | shortRead bs h =>
    rw [Block.raiseShortRead, Block.raiseError_phase]
    refine ⟨?_, Block.raiseError_requestFits hb _ _⟩
    rcases h with h | h <;> rw [h] <;> decide
  | queryIdle h | queryBusy h | cancelled h | configured h | written h | wordReadBack _ _ _ _ h =>
    rw [h]
    exact ⟨by simp [Phase.successors, Block.enterConfig, Block.onWordReadBack], rfl⟩
  | wordRead b0 b1 b2 b3 h =>
    obtain ⟨hfits, hphase⟩ := b.onWordRead_cases (wordLE b0 b1 b2 b3)
    refine ⟨?_, hfits⟩
    rw [h]
    rcases hphase with hphase | hphase <;> rw [hphase] <;> decide

theorem answer_successor {p : Response} {s t : State} (h : answer p s = .next t) :
    t.block.phase ∈ s.block.phase.successors ∧ t.block.RequestFits := by
  obtain ⟨r, b, -, -, ho, rfl⟩ := answer_next_iff.1 h
  exact (Block.onResponse_effect ho).successor (Block.busy_of_onResponse ho)

/-! The requests of a run (R333, R334) -/

theorem Block.RequestFits.toList {b : Block} (h : b.RequestFits) :
    b.req.toList.map Request.kind = b.phase.requestKind.toList := by
  rw [← h, Option.toList_map]

/-- Whatever the answers, the requests placed from a phase on begin one of its sequences. -/
theorem begins_requestsPlaced (ps : List Response) : ∀ {s : State}, s.block.RequestFits →
    s.block.phase.Begins ((requestsPlaced ps s).map Request.kind) := by
  induction ps with
  | nil =>
    intro s h
    rw [requestsPlaced, h.toList]
    exact Phase.begins_requestKind _
  | cons p ps ih =>
    intro s h
    by_cases hnext : ∃ t, answer p s = .next t
    · obtain ⟨t, ht⟩ := hnext
      obtain ⟨hsucc, hfits⟩ := answer_successor ht
      rw [requestsPlaced_cons_next ht, List.map_append, h.toList]
      exact (ih hfits).cons hsucc
    · rw [requestsPlaced_cons_stop (not_exists.1 hnext), h.toList]
      exact Phase.begins_requestKind _

/-- The bounds of R333, on the whole sequences. -/
theorem wholeSequences_bounds : ∀ whole ∈ wholeSequences,
    whole.length ≤ 6 ∧ whole.count .read ≤ 2 ∧ whole.count .write ≤ 1 := by decide

/-- Settles O44: the take leaves phase QUERY with a Query, and the beginning of a sequence is no longer than the
whole and holds no kind more often. -/
theorem runPlacesALegalRequestSequence : Obligations.RunPlacesALegalRequestSequence := by
  intro s t ps hidle hupdate
  rw [exec_idle _ hidle] at hupdate
  cases hupdate
  obtain ⟨whole, hwhole, hpre⟩ :=
    begins_requestsPlaced ps (s := { s with block := s.block.clearForTake.startRun }) rfl
  obtain ⟨hlength, hreads, hwrites⟩ := wholeSequences_bounds whole hwhole
  have hcount (k : RequestKind) := hpre.sublist.count_le k
  refine ⟨⟨whole, hwhole, hpre⟩, ?_, (hcount .read).trans hreads, (hcount .write).trans hwrites⟩
  rw [← List.length_map Request.kind]
  exact hpre.length_le.trans hlength

end Sys2Proof.Machine
end

section
/-! The error record (60_exceptions.md R406): outside a run only a reset and the host's writes reach it, and of the
writes off CMD only a rejected one to ADDR or TARGET. -/

namespace Sys2Proof.Machine

/-- ERR is 1, and ERRCLASS and ERRCODE hold `k` and `c`. -/
def Block.HoldsError (b : Block) (k : ErrClass) (c : Word) : Prop := b.err = true ∧ b.errClass = k ∧ b.errCode = c

/-- The record of a raise is its own, whatever record it overwrites (R403, R406). -/
theorem Block.raiseError_holdsError (b : Block) (k : ErrClass) (c : Word) : (b.raiseError k c).HoldsError k c :=
  ⟨rfl, rfl, rfl⟩

theorem Block.writeTarget_of_legal {b : Block} {v : Word} (h : v = 0 ∨ v = 2 ∨ v = 3) :
    b.writeTarget v = { b with target := v.setWidth 3 } := if_pos h

theorem Block.writeTarget_of_illegal {b : Block} {v : Word} (h : ¬(v = 0 ∨ v = 2 ∨ v = 3)) :
    b.writeTarget v = b.raiseError .illegalTarget 0 := if_neg h

/-- The host write of `v` at `off` is one that R50 or R51 rejects, with an error of class `k`. -/
inductive RejectedWrite : BitVec 8 → Word → ErrClass → Prop where
  | addr {v : Word} : 0x7F < v → RejectedWrite 0x0C v .invalidAddress
  | target {v : Word} : ¬(v = 0 ∨ v = 2 ∨ v = 3) → RejectedWrite 0x10 v .illegalTarget

/-! What reaches the record (R406) -/

section Record

variable {s t : State} {k : ErrClass} {c : Word}

/-- A write to any register but CMD keeps the record, unless the write is rejected (R112). -/
theorem writeReg_error {r : Reg} {v : Word} (hr : r ≠ .cmd) (hidle : s.block.phase = .idle)
    (h : s.block.HoldsError k c) (hw : writeReg r v s = .next t) :
    t.block.HoldsError k c ∨ ∃ k', RejectedWrite r.offset v k' ∧ t.block.HoldsError k' 0 := by
  cases r <;> simp only [writeReg, writeUnlessBusy_idle hidle] at hw
  case cmd => exact absurd rfl hr
  case addr =>
    cases hw
    by_cases hv : v ≤ 0x7F
    · rw [Block.writeAddr_of_le hv]
      exact .inl h
    · have hlt := BitVec.not_le.1 hv
      rw [Block.writeAddr_of_lt hlt]
      exact .inr ⟨_, .addr hlt, Block.raiseError_holdsError ..⟩
  case target =>
    cases hw
    by_cases hv : v = 0 ∨ v = 2 ∨ v = 3
    · rw [Block.writeTarget_of_legal hv]
      exact .inl h
    · rw [Block.writeTarget_of_illegal hv]
      exact .inr ⟨_, .target hv, Block.raiseError_holdsError ..⟩
  case div | raw | cfg0 | cfg1 => cases hw; exact .inl h
  case status | errcode | work0 | work1 | wout | rdbk | dmask | lkp | dold | dnew => cases hw; exact .inl h

/-- A host write off CMD keeps the record, unless the write is rejected. -/
theorem hostWrite_error {off : BitVec 8} {v : Word} (hoff : off ≠ 0x00) (hidle : s.block.phase = .idle)
    (h : s.block.HoldsError k c) (hw : hostWrite off v s = .next t) :
    t.block.HoldsError k c ∨ ∃ k', RejectedWrite off v k' ∧ t.block.HoldsError k' 0 := by
  cases hreg : regAt off with
  | none =>
    rw [hostWrite_reserved hreg] at hw
    cases hw
    exact .inl h
  | some r =>
    rw [hostWrite_of_regAt hreg] at hw
    obtain rfl := offset_of_regAt hreg
    exact writeReg_error (fun hcmd => hoff (hcmd ▸ rfl)) hidle h hw

/-- A response is given a step during a run only, whatever REQ holds (R120). -/
theorem phase_ne_idle_of_answer {p : Response} (h : answer p s = .next t) : s.block.phase ≠ .idle := by
  obtain ⟨_, _, -, -, hresponse, -⟩ := answer_next_iff.1 h
  exact (Block.busy_eq_true_iff _).1 (Block.busy_of_onResponse hresponse)

/-- A turn outside a run that is no reset keeps the record, unless it is the host's with a write to CMD or one that is
rejected. -/
theorem takeTurn_error {u : Turn} (hreset : u ≠ .reset) (hidle : s.block.phase = .idle)
    (hcmd : ∀ v ops, u = .host → s.host.program ≠ .write 0x00 32 v :: ops) (h : s.block.HoldsError k c)
    (hu : takeTurn u s = .next t) :
    t.block.HoldsError k c ∨ ∃ off v ops k', u = .host ∧ s.host.program = .write off 32 v :: ops ∧
      RejectedWrite off v k' ∧ t.block.HoldsError k' 0 := by
  cases u with
  | host =>
    obtain ⟨-, -, hsame | ⟨off, v, ops, hprog, -, hw, -⟩⟩ := hostTurn_cases hu
    · rw [hsame]
      exact .inl h
    · have hoff : off ≠ 0x00 := fun hzero => hcmd v ops rfl (hzero ▸ hprog)
      have hwrite := hostWrite_error (s := { s with host := { s.host with program := ops } }) hoff hidle h hw
      exact hwrite.imp_right fun ⟨k', hrejected, herr⟩ => ⟨off, v, ops, k', rfl, hprog, hrejected, herr⟩
  | answer p => exact (phase_ne_idle_of_answer hu hidle).elim
  | environment =>
    obtain ⟨_, -, hanswer⟩ := environmentAnswer_cases hu
    exact (phase_ne_idle_of_answer hanswer hidle).elim
  | lateAnswer i p => obtain ⟨_, rfl⟩ := lateAnswer_cases hu; exact .inl h
  | reset => exact absurd rfl hreset
  | eepromChange a o bs => cases hu; exact .inl h

end Record

/-- Settles O9: a turn keeps the record or is a rejected write, whose register and value say which error it raised. -/
theorem errorRecordStaysUntilTakeOrReset : Obligations.ErrorRecordStaysUntilTakeOrReset := by
  intro s t hbusy herr hreset hcmd he
  have h : s.block.HoldsError s.block.errClass s.block.errCode := ⟨herr, rfl, rfl⟩
  rcases step_cases he with ⟨-, rfl⟩ | ⟨u, ts, hts, hu⟩
  · exact ⟨herr, .inl ⟨rfl, rfl⟩⟩
  · have hturn := takeTurn_error (s := { s with turns := ts }) (fun hu' => hreset ts (hu' ▸ hts))
      ((Block.busy_eq_false_iff _).1 hbusy) (fun v ops hu' hprog => hcmd ts v ops ⟨hu' ▸ hts, hprog⟩) h hu
    rcases hturn with ⟨herr', hrecord⟩ | ⟨off, v, ops, k', rfl, hprog, hrejected, herr', hrecord⟩
    · exact ⟨herr', .inl hrecord⟩
    · cases hrejected with
      | addr hv => exact ⟨herr', .inr (.inl ⟨ts, v, ops, hts, hprog, hv, hrecord⟩)⟩
      | target hv => exact ⟨herr', .inr (.inr ⟨ts, v, ops, hts, hprog, hv, hrecord⟩)⟩

end Sys2Proof.Machine
end

section
/-! Abandoned requests (70_reset_and_hazards.md R452, 20_memory.md R121): a reset queues the outstanding request, and a
late response takes the one it answers off the queue. -/

namespace Sys2Proof.Machine

/-- A late response that its request admits is discarded: only that request leaves the list, wherever it stands in it
(R121). -/
theorem lateAnswer_eq_of_abandoned {s : State} {before after : List Request} {r : Request} {p : Response}
    (hlist : s.transport.abandoned = before ++ r :: after) (hadmits : r.admits p = true) :
    lateAnswer before.length p s = .next { s with transport := { s.transport with abandoned := before ++ after } } := by
  have hnamed : s.transport.abandoned[before.length]? = some r := by
    rw [hlist, List.getElem?_append_right le_rfl, Nat.sub_self, List.getElem?_cons_zero]
  have herased : s.transport.abandoned.eraseIdx before.length = before ++ after := by
    rw [hlist, List.eraseIdx_append_of_length_le le_rfl, Nat.sub_self, List.eraseIdx_cons_zero]
  exact lateAnswer_next_iff.2 ⟨r, hnamed, hadmits, by rw [herased]⟩

/-- Settles O3: the reset queues the outstanding request last, and a late response is a turn that takes its request off
the queue. -/
theorem abandonedRequestsAnswerIsDiscarded : Obligations.AbandonedRequestsAnswerIsDiscarded := by
  refine ⟨fun s r ts hreq => ?_, fun s before after r p ts hlist hadmits => ?_⟩
  · have hqueue : (resetEvent { s with turns := ts }).transport.abandoned = s.transport.abandoned ++ [r] := by
      simp only [resetEvent, hreq, Transport.abandon_abandoned]
    exact ⟨resetEvent { s with turns := ts }, rfl, rfl, rfl, hqueue⟩
  · exact lateAnswer_eq_of_abandoned (s := { s with turns := ts }) hlist hadmits

end Sys2Proof.Machine
end
